-- ==== Sys2Proof/Word.lean ====
section
/-! DEFINITION. The word types that pass through the block (spec 10_state.md R26, R27, R29; 00_scope.md R11: all unsigned). -/

namespace Sys2Proof

/-- "an 8-bit unsigned value" (R26); bit 0 is the least significant (R8). -/
abbrev Byte := BitVec 8

/-- "a 32-bit unsigned value representing a byte offset into flash memory" (R27). -/
abbrev Address := BitVec 32

/-- The 3-bit block protect level, 0 to 7 (R30, R32). -/
abbrev BlockProtect := BitVec 3

/-- The capacity at its port, 256 bits, one-hot (R29, R42, R112). -/
abbrev CapacityPort := BitVec 256

end Sys2Proof
end

