-- ==== Sys2Proof/Config.lean ====
section
/-! DEFINITION. The implementation parameters of the block (spec 00_scope.md R7).
Every one is fixed by the spec; no value of the block is left open, so there is no opaque constant here. -/

namespace Sys2Proof.Config

/-- `BYTE_W`: width of a Byte. -/
def byteWidth : Nat := 8
/-- `ADDR_IN_W`: width of the address input. -/
def addressWidth : Nat := 32
/-- `ADDR_ENC_W`: address bits encoded, the low 24. -/
def encodedAddressWidth : Nat := 24
/-- `ADDR_BYTES`: address bytes of an address-bearing instruction. -/
def addressBytes : Nat := 3
/-- `N_OPS`: number of operations. -/
def operations : Nat := 18
/-- `MAX_LEN`: longest byte sequence produced. -/
def maxLength : Nat := 5
/-- `JEDEC_BUF_LEN`. -/
def jedecBufferLength : Nat := 4
/-- `SR_BUF_LEN`. -/
def statusBufferLength : Nat := 2
/-- `BP_W`: width of the BP field. -/
def blockProtectWidth : Nat := 3
/-- `DUMMY`: the Fast Read dummy byte, 0x00 (R103; 90_conflicts.md C1). -/
def dummy : Byte := 0x00
/-- `PLACEHOLDER`: the bytes of a request buffer after the opcode, 0x00 (R35, decision D6). -/
def placeholder : Byte := 0x00
/-- `CAP_W`: width of the capacity output. -/
def capacityWidth : Nat := 256
/-- `OP_W`: width of the operation selector. -/
def selectorWidth : Nat := 4

end Sys2Proof.Config
end

