-- ==== Sys2Proof/Syntax.lean ====
section
/-! DEFINITION. The eighteen operations of spec 30_encoding.md R74 with their operands, and the ports at which
they are presented to the block (10_state.md R39, R40, R42). -/

namespace Sys2Proof

/-- The Logical Status Register: "BP(0–7), TB, SEC, SPR0, SPR1, QE" (R32). A record with no layout of its own;
it has no Busy, WEL or SUS (R33). -/
structure LogicalStatus where
  bp   : BlockProtect
  tb   : Bool
  sec  : Bool
  spr0 : Bool
  spr1 : Bool
  qe   : Bool
deriving DecidableEq, Repr

/-- A byte sequence of length 2, positions 1 and 2 (R9, R26): a status register response buffer (R35). -/
structure Response2 where
  pos1 : Byte
  pos2 : Byte
deriving DecidableEq, Repr

/-- A byte sequence of length 4, positions 1 to 4 (R9, R26): a JEDEC response buffer (R35). -/
structure Response4 where
  pos1 : Byte
  pos2 : Byte
  pos3 : Byte
  pos4 : Byte
deriving DecidableEq, Repr

/-- The operations, in the order of R74, one constructor for each row of the opcode table, each with the operands
its rule names. -/
inductive Instr where
  | writeEnable                                 -- R90
  | writeDisable                                -- R91
  | powerDown                                   -- R92
  | releasePowerDown                            -- R93
  | chipErase                                   -- R94
  | sectorErase (addr : Address)                -- R100
  | block32kErase (addr : Address)              -- R101
  | block64kErase (addr : Address)              -- R102
  | fastReadPrefix (addr : Address)             -- R103
  | pageProgramPrefix (addr : Address)          -- R104
  | readJedecIdData                             -- R110
  | getJedecId (buf : Response4)                -- R111
  | getCapacity (buf : Response4)               -- R112
  | readStatusRegister1Data                     -- R120
  | getStatusRegister1 (buf : Response2)        -- R122
  | readStatusRegister2Data                     -- R123
  | getStatusRegister2 (buf : Response2)        -- R124
  | writeStatusRegister (v : LogicalStatus)     -- R125
deriving DecidableEq, Repr

/-- The fourteen encode operations without their operands: the abstract type of the encoder's selector (R40). -/
inductive EncOp where
  | writeEnable | writeDisable | powerDown | releasePowerDown | chipErase
  | sectorErase | block32kErase | block64kErase | fastReadPrefix | pageProgramPrefix
  | readJedecIdData | readStatusRegister1Data | readStatusRegister2Data | writeStatusRegister
deriving DecidableEq, Repr

/-- The six encode formats (R71). -/
inductive Format where
  | op | opa | opad | rq4 | rq2 | wsr
deriving DecidableEq, Repr

/-- The five functions of the block: the encoder (R39) and the four decoders (R42). -/
inductive Select where
  | encoder | jedecId | capacity | status1 | status2
deriving DecidableEq, Repr

/-- The input ports of the block: the encoder's (R39; the six status ports are the fields of `lsr`) and the
decoder's three buffers (R42). -/
structure Inputs where
  op    : BitVec 4
  addr  : Address
  lsr   : LogicalStatus
  jbuf  : Response4
  s1buf : Response2
  s2buf : Response2
deriving DecidableEq, Repr

/-- One evaluation the caller makes (R22): what it puts on the input ports, and which of the block's functions it
evaluates. DESIGN CHOICE (log 3): the decoders have no selector (R42), so the caller's choice is named here. -/
structure Presentation where
  sel : Select
  inp : Inputs
deriving DecidableEq, Repr

/-- The JEDEC ID: manufacturer, memory type, capacity code, positions 1 to 3 (R28). -/
structure JedecId where
  manufacturer : Byte
  memoryType   : Byte
  capacityCode : Byte
deriving DecidableEq, Repr

/-- The fields of Status Register 1 (R30). -/
structure Status1 where
  busy : Bool
  wel  : Bool
  bp   : BlockProtect
  tb   : Bool
  sec  : Bool
  spr0 : Bool
deriving DecidableEq, Repr

/-- The exposed fields of Status Register 2 (R31); bits 6:2 are not among them (R34). -/
structure Status2 where
  spr1 : Bool
  qe   : Bool
  sus  : Bool
deriving DecidableEq, Repr

/-- The value an operation returns (R13): a byte sequence for an encode operation, and one form for each decoder. -/
inductive Result where
  | bytes (s : List Byte)
  | jedecId (id : JedecId)
  | capacity (n : Nat)
  | status1 (f : Status1)
  | status2 (f : Status2)
deriving DecidableEq, Repr

/-- The encoder's output ports (R39). -/
structure EncoderOut where
  len : BitVec 3
  b1  : Byte
  b2  : Byte
  b3  : Byte
  b4  : Byte
  b5  : Byte
deriving DecidableEq, Repr

/-- The decoder's output ports (R42). -/
structure DecoderOut where
  idManufacturer : Byte
  idMemoryType   : Byte
  idCapacityCode : Byte
  capacity       : CapacityPort
  sr1            : Status1
  sr2            : Status2
deriving DecidableEq, Repr

/-- All output ports. -/
structure Outputs where
  enc : EncoderOut
  dec : DecoderOut
deriving DecidableEq, Repr

end Sys2Proof
end

