-- ==== Sys2Proof/Machine/Operands.lean ====
section
/-! DEFINITION. Operand assembly and the encode formats (spec 30_encoding.md R70 to R72), the operation map (R74),
the selector codes (10_state.md R40), and the driving of the input ports. -/

namespace Sys2Proof.Machine

/-- The three address bytes, most significant first, of the low 24 bits (R55, R72): bits 31 to 24 are dropped. -/
def addressBytes (addr : Address) : List Byte :=
  [addr.extractLsb' 16 8, addr.extractLsb' 8 8, addr.extractLsb' 0 8]

/-- Format `OP`: the opcode alone (R71). -/
def formatOp (opcode : Byte) : List Byte := [opcode]

/-- Format `OPA`: the opcode and the address bytes (R71). -/
def formatOpa (opcode : Byte) (addr : Address) : List Byte := opcode :: addressBytes addr

/-- Format `OPAD`: the opcode, the address bytes and the dummy byte (R71). -/
def formatOpad (opcode : Byte) (addr : Address) : List Byte := opcode :: addressBytes addr ++ [Config.dummy]

/-- Formats `RQ2` and `RQ4`: a request buffer, "position 0 set to the instruction opcode and the rest zero-filled"
(R35, R71). -/
def requestBuffer (opcode : Byte) (placeholders : Nat) : List Byte :=
  opcode :: List.replicate placeholders Config.placeholder

/-- Format `WSR`: the opcode and the two packed status bytes (R71). -/
def formatWsr (opcode s1 s2 : Byte) : List Byte := [opcode, s1, s2]

/-- The opcode of an encode operation (R74). -/
def opcodeOf : EncOp → Byte
  | .writeEnable => 0x06
  | .writeDisable => 0x04
  | .powerDown => 0xB9
  | .releasePowerDown => 0xAB
  | .chipErase => 0x60
  | .sectorErase => 0x20
  | .block32kErase => 0x52
  | .block64kErase => 0xD8
  | .fastReadPrefix => 0x0B
  | .pageProgramPrefix => 0x02
  | .readJedecIdData => 0x9F
  | .readStatusRegister1Data => 0x05
  | .readStatusRegister2Data => 0x35
  | .writeStatusRegister => 0x01

/-- The format of an encode operation (R71, R74). -/
def formatOf : EncOp → Format
  | .writeEnable => .op
  | .writeDisable => .op
  | .powerDown => .op
  | .releasePowerDown => .op
  | .chipErase => .op
  | .sectorErase => .opa
  | .block32kErase => .opa
  | .block64kErase => .opa
  | .fastReadPrefix => .opad
  | .pageProgramPrefix => .opa
  | .readJedecIdData => .rq4
  | .readStatusRegister1Data => .rq2
  | .readStatusRegister2Data => .rq2
  | .writeStatusRegister => .wsr

/-- The length of a format in bytes (R71). -/
def formatLength : Format → Nat
  | .op => 1
  | .opa => 4
  | .opad => 5
  | .rq4 => 4
  | .rq2 => 2
  | .wsr => 3

/-- The binary code of an encode operation at the selector port, in the order of the table (R40). -/
def selectorCode : EncOp → BitVec 4
  | .writeEnable => 0
  | .writeDisable => 1
  | .powerDown => 2
  | .releasePowerDown => 3
  | .chipErase => 4
  | .sectorErase => 5
  | .block32kErase => 6
  | .block64kErase => 7
  | .fastReadPrefix => 8
  | .pageProgramPrefix => 9
  | .readJedecIdData => 10
  | .readStatusRegister1Data => 11
  | .readStatusRegister2Data => 12
  | .writeStatusRegister => 13

/-- The operation a selector code selects; codes 14 and 15 select none (R40). -/
def selectedOp (code : BitVec 4) : Option EncOp :=
  match code.toNat with
  | 0 => some .writeEnable
  | 1 => some .writeDisable
  | 2 => some .powerDown
  | 3 => some .releasePowerDown
  | 4 => some .chipErase
  | 5 => some .sectorErase
  | 6 => some .block32kErase
  | 7 => some .block64kErase
  | 8 => some .fastReadPrefix
  | 9 => some .pageProgramPrefix
  | 10 => some .readJedecIdData
  | 11 => some .readStatusRegister1Data
  | 12 => some .readStatusRegister2Data
  | 13 => some .writeStatusRegister
  | _ => none

/-- The caller drives the selector port (R39). DESIGN CHOICE, log 11, here and in every drive below: the ports an evaluation
does not name keep what they carried. The spec says only that they have no effect (R41). -/
def driveOp (o : EncOp) (p : Inputs) : Inputs := { p with op := selectorCode o }

/-- The caller drives the selector and the address port (R39); the other ports keep what they carried (log 11). -/
def driveAddress (o : EncOp) (a : Address) (p : Inputs) : Inputs := { p with op := selectorCode o, addr := a }

/-- The caller drives the selector and the six status ports (R39); the other ports keep what they carried (log 11). -/
def driveStatus (o : EncOp) (v : LogicalStatus) (p : Inputs) : Inputs := { p with op := selectorCode o, lsr := v }

/-- The caller drives the JEDEC response buffer port (R42); the other ports keep what they carried (log 11). -/
def driveJbuf (buf : Response4) (p : Inputs) : Inputs := { p with jbuf := buf }

/-- The caller drives the Status Register 1 response buffer port (R42); the other ports keep what they carried (log 11). -/
def driveS1buf (buf : Response2) (p : Inputs) : Inputs := { p with s1buf := buf }

/-- The caller drives the Status Register 2 response buffer port (R42); the other ports keep what they carried (log 11). -/
def driveS2buf (buf : Response2) (p : Inputs) : Inputs := { p with s2buf := buf }

end Sys2Proof.Machine
end

