-- ==== Sys2Proof/WellFormed.lean ====
section
/-! DEFINITION. Which operands and selector codes the encodings hold without loss. No operation is refused for
these checks: every operand value runs (spec 20_memory.md R58, 30_encoding.md R79, 60_exceptions.md R140). -/

namespace Sys2Proof

/-- The address lies within the encoder's reach, byte offsets 0 to 2^24 − 1 (R51): bits 31 to 24 are zero. -/
def addressEncodable (a : Address) : Bool := a.toNat < 2 ^ 24

/-- Every operand is a value its byte sequence holds without loss. -/
def Instr.wf : Instr → Bool
  | .writeEnable => true
  | .writeDisable => true
  | .powerDown => true
  | .releasePowerDown => true
  | .chipErase => true
  | .sectorErase a => addressEncodable a
  | .block32kErase a => addressEncodable a
  | .block64kErase a => addressEncodable a
  | .fastReadPrefix a => addressEncodable a
  | .pageProgramPrefix a => addressEncodable a
  | .readJedecIdData => true
  | .getJedecId _ => true
  | .getCapacity _ => true
  | .readStatusRegister1Data => true
  | .getStatusRegister1 _ => true
  | .readStatusRegister2Data => true
  | .getStatusRegister2 _ => true
  | .writeStatusRegister _ => true

/-- A well-formed instruction: its wire encoding loses no operand bit. -/
abbrev WellFormed (i : Instr) : Prop := i.wf = true

/-- The presentation selects an operation: a decoder, or the encoder with one of the codes 0 to 13 (R40). -/
def Presentation.wf (p : Presentation) : Bool :=
  match p.sel with
  | .encoder => p.inp.op.toNat < 14
  | .jedecId => true
  | .capacity => true
  | .status1 => true
  | .status2 => true

end Sys2Proof
end

