-- ==== Sys2Proof/Decode.lean ====
section
/-! DEFINITION. The two encodings of an operation and their decoders. On the wire: the byte sequences of the opcode
table, read as one number with position 1 most significant (spec 30_encoding.md R82), decoded by length, mask and
match (R75, 93_implementation_defined.md U14) and rejected by name. At the ports: the function evaluated, the selector
code and the operand ports (10_state.md R39, R40, R42). -/

namespace Sys2Proof

/-- Why a byte sequence stands for no operation of the table. -/
inductive DecodeError where
  /-- There is no position 1. -/
  | emptySequence
  /-- Position 1 is none of the fourteen opcodes (R77; 93 U14: refuse, do not guess a length). -/
  | unknownOpcode (b : Byte)
  /-- The length is not the one the opcode fixes (R75). -/
  | wrongLength (o : EncOp)
  /-- A bit the encoder always sends as 0 is 1 (R73, R78, R103, R110, R120, R123). -/
  | fixedBitsDiffer (o : EncOp)
  /-- A response buffer of another length than its decoder consumes (R71). -/
  | wrongResponseLength (sel : Select)
deriving DecidableEq, Repr

/-- What a decoder of byte sequences answers. -/
inductive Decoded where
  | instr (i : Instr)
  | rejected (e : DecodeError)
deriving DecidableEq, Repr

/-- A row of the opcode table for an encode operation: its length in bytes and its mask and match numbers. -/
structure TableRow where
  op    : EncOp
  bytes : Nat
  mask  : Nat
  value : Nat
deriving DecidableEq, Repr

/-- The fourteen encode rows of spec/opcode_table.json, with its numbers. -/
def encodeRows : List TableRow :=
  [⟨.writeEnable, 1, 0xFF, 0x06⟩,
   ⟨.writeDisable, 1, 0xFF, 0x04⟩,
   ⟨.powerDown, 1, 0xFF, 0xB9⟩,
   ⟨.releasePowerDown, 1, 0xFF, 0xAB⟩,
   ⟨.chipErase, 1, 0xFF, 0x60⟩,
   ⟨.sectorErase, 4, 0xFF000000, 0x20000000⟩,
   ⟨.block32kErase, 4, 0xFF000000, 0x52000000⟩,
   ⟨.block64kErase, 4, 0xFF000000, 0xD8000000⟩,
   ⟨.fastReadPrefix, 5, 0xFF000000FF, 0x0B00000000⟩,
   ⟨.pageProgramPrefix, 4, 0xFF000000, 0x02000000⟩] ++
  [⟨.readJedecIdData, 4, 0xFFFFFFFF, 0x9F000000⟩,
   ⟨.readStatusRegister1Data, 2, 0xFFFF, 0x0500⟩,
   ⟨.readStatusRegister2Data, 2, 0xFFFF, 0x3500⟩,
   ⟨.writeStatusRegister, 3, 0xFF03FC, 0x010000⟩]

/-- A byte sequence as one number, position 1 most significant (R82). -/
def bytesToNat (s : List Byte) : Nat := s.foldl (fun n b => n * 256 + b.toNat) 0

/-- The `n` low bytes of a number as a byte sequence, position 1 most significant (R82); what the number holds above them
is not read (for a table word DESIGN CHOICE, log 13). -/
def natToBytes : Nat → Nat → List Byte
  | 0, _ => []
  | n + 1, w => BitVec.ofNat 8 (w / 256 ^ n) :: natToBytes n w

/-- The number at position 1 of a row's pattern: its opcode. -/
def TableRow.firstByte (r : TableRow) : Nat := r.value / 256 ^ (r.bytes - 1)

/-- The 24 address bits that begin at bit `lo` of a row's number, as the Address input, bits 31 to 24 zero (R82). -/
def addressField (lo w : Nat) : Address := BitVec.ofNat 32 (w / 2 ^ lo % 2 ^ 24)

/-- The status fields of the `WSR` row, `pstbbb00 000000qr` (R82). -/
def statusFields (w : Nat) : LogicalStatus :=
  { bp := BitVec.ofNat 3 (w / 2 ^ 10)
    tb := w.testBit 13
    sec := w.testBit 14
    spr0 := w.testBit 15
    spr1 := w.testBit 0
    qe := w.testBit 1 }

/-- The instruction a row's number stands for. -/
def assemble (o : EncOp) (w : Nat) : Instr :=
  match o with
  | .writeEnable => .writeEnable
  | .writeDisable => .writeDisable
  | .powerDown => .powerDown
  | .releasePowerDown => .releasePowerDown
  | .chipErase => .chipErase
  | .sectorErase => .sectorErase (addressField 0 w)
  | .block32kErase => .block32kErase (addressField 0 w)
  | .block64kErase => .block64kErase (addressField 0 w)
  | .fastReadPrefix => .fastReadPrefix (addressField 8 w)
  | .pageProgramPrefix => .pageProgramPrefix (addressField 0 w)
  | .readJedecIdData => .readJedecIdData
  | .readStatusRegister1Data => .readStatusRegister1Data
  | .readStatusRegister2Data => .readStatusRegister2Data
  | .writeStatusRegister => .writeStatusRegister (statusFields w)

/-- The encode operation whose byte sequence this is; every other sequence is rejected by name. -/
def decodeRequest (s : List Byte) : Decoded :=
  match s with
  | [] => .rejected .emptySequence
  | b :: _ =>
    match encodeRows.find? (fun r => r.firstByte == b.toNat) with
    | none => .rejected (.unknownOpcode b)
    | some r =>
      if s.length ≠ r.bytes then .rejected (.wrongLength r.op)
      else if bytesToNat s &&& r.mask ≠ r.value then .rejected (.fixedBitsDiffer r.op)
      else .instr (assemble r.op (bytesToNat s))

/-- A response buffer of four bytes, handed to one of the two JEDEC decoders: any bytes are accepted (R79). -/
def decodeResponse4 (sel : Select) (mk : Response4 → Instr) (s : List Byte) : Decoded :=
  match s with
  | [b1, b2, b3, b4] => .instr (mk ⟨b1, b2, b3, b4⟩)
  | _ => .rejected (.wrongResponseLength sel)

/-- A response buffer of two bytes, handed to one of the two status decoders: any bytes are accepted (R79). -/
def decodeResponse2 (sel : Select) (mk : Response2 → Instr) (s : List Byte) : Decoded :=
  match s with
  | [b1, b2] => .instr (mk ⟨b1, b2⟩)
  | _ => .rejected (.wrongResponseLength sel)

/-- The operation a byte sequence stands for at one of the block's functions: total on any bytes. -/
def decode (sel : Select) (s : List Byte) : Decoded :=
  match sel with
  | .encoder => decodeRequest s
  | .jedecId => decodeResponse4 .jedecId .getJedecId s
  | .capacity => decodeResponse4 .capacity .getCapacity s
  | .status1 => decodeResponse2 .status1 .getStatusRegister1 s
  | .status2 => decodeResponse2 .status2 .getStatusRegister2 s

/-- The function of the block an instruction is evaluated at (R39, R42). -/
def Instr.select : Instr → Select
  | .writeEnable => .encoder
  | .writeDisable => .encoder
  | .powerDown => .encoder
  | .releasePowerDown => .encoder
  | .chipErase => .encoder
  | .sectorErase _ => .encoder
  | .block32kErase _ => .encoder
  | .block64kErase _ => .encoder
  | .fastReadPrefix _ => .encoder
  | .pageProgramPrefix _ => .encoder
  | .readJedecIdData => .encoder
  | .getJedecId _ => .jedecId
  | .getCapacity _ => .capacity
  | .readStatusRegister1Data => .encoder
  | .getStatusRegister1 _ => .status1
  | .readStatusRegister2Data => .encoder
  | .getStatusRegister2 _ => .status2
  | .writeStatusRegister _ => .encoder

/-- The number whose bits `hi` down to 0 are `a[23:0]` of an `OPA` or `OPAD` row (R82). -/
def addressNumber (a : Address) : Nat := a.toNat % 2 ^ 24

/-- The two data bytes of the `WSR` row as one number: `pstbbb00 000000qr` (R82). -/
def statusNumber (v : LogicalStatus) : Nat :=
  v.spr0.toNat * 2 ^ 15 + v.sec.toNat * 2 ^ 14 + v.tb.toNat * 2 ^ 13 + v.bp.toNat * 2 ^ 10 + v.qe.toNat * 2 + v.spr1.toNat

/-- The byte sequence of an instruction as the opcode table's `encoding` pattern gives it (R82): for an encode
operation the row's number with its fields in place, for a decode operation the response buffer it consumes. -/
def encode : Instr → List Byte
  | .writeEnable => natToBytes 1 0x06
  | .writeDisable => natToBytes 1 0x04
  | .powerDown => natToBytes 1 0xB9
  | .releasePowerDown => natToBytes 1 0xAB
  | .chipErase => natToBytes 1 0x60
  | .sectorErase a => natToBytes 4 (0x20000000 + addressNumber a)
  | .block32kErase a => natToBytes 4 (0x52000000 + addressNumber a)
  | .block64kErase a => natToBytes 4 (0xD8000000 + addressNumber a)
  | .fastReadPrefix a => natToBytes 5 (0x0B00000000 + addressNumber a * 2 ^ 8)
  | .pageProgramPrefix a => natToBytes 4 (0x02000000 + addressNumber a)
  | .readJedecIdData => natToBytes 4 0x9F000000
  | .getJedecId buf => [buf.pos1, buf.pos2, buf.pos3, buf.pos4]
  | .getCapacity buf => [buf.pos1, buf.pos2, buf.pos3, buf.pos4]
  | .readStatusRegister1Data => natToBytes 2 0x0500
  | .getStatusRegister1 buf => [buf.pos1, buf.pos2]
  | .readStatusRegister2Data => natToBytes 2 0x3500
  | .getStatusRegister2 buf => [buf.pos1, buf.pos2]
  | .writeStatusRegister v => natToBytes 3 (0x010000 + statusNumber v)

/-- The length of an instruction's byte sequence, by the operation alone (R26, R71). -/
def Instr.lengthBytes : Instr → Nat
  | .writeEnable => 1
  | .writeDisable => 1
  | .powerDown => 1
  | .releasePowerDown => 1
  | .chipErase => 1
  | .sectorErase _ => 4
  | .block32kErase _ => 4
  | .block64kErase _ => 4
  | .fastReadPrefix _ => 5
  | .pageProgramPrefix _ => 4
  | .readJedecIdData => 4
  | .getJedecId _ => 4
  | .getCapacity _ => 4
  | .readStatusRegister1Data => 2
  | .getStatusRegister1 _ => 2
  | .readStatusRegister2Data => 2
  | .getStatusRegister2 _ => 2
  | .writeStatusRegister _ => 3

/-- The instruction with its address operand as the wire carries it, bits 31 to 24 zero (R72). -/
def Instr.truncated : Instr → Instr
  | .writeEnable => .writeEnable
  | .writeDisable => .writeDisable
  | .powerDown => .powerDown
  | .releasePowerDown => .releasePowerDown
  | .chipErase => .chipErase
  | .sectorErase a => .sectorErase (BitVec.ofNat 32 (addressNumber a))
  | .block32kErase a => .block32kErase (BitVec.ofNat 32 (addressNumber a))
  | .block64kErase a => .block64kErase (BitVec.ofNat 32 (addressNumber a))
  | .fastReadPrefix a => .fastReadPrefix (BitVec.ofNat 32 (addressNumber a))
  | .pageProgramPrefix a => .pageProgramPrefix (BitVec.ofNat 32 (addressNumber a))
  | .readJedecIdData => .readJedecIdData
  | .getJedecId buf => .getJedecId buf
  | .getCapacity buf => .getCapacity buf
  | .readStatusRegister1Data => .readStatusRegister1Data
  | .getStatusRegister1 buf => .getStatusRegister1 buf
  | .readStatusRegister2Data => .readStatusRegister2Data
  | .getStatusRegister2 buf => .getStatusRegister2 buf
  | .writeStatusRegister v => .writeStatusRegister v

/-- The instruction a decoder answered, if it did. -/
def Decoded.toOption : Decoded → Option Instr
  | .instr i => some i
  | .rejected _ => none

/-- The instruction of an opcode-table word of `nbits` bits, numbered as the table numbers it: one number, position 1
most significant (R82; DEDUCED, log 6). A word of an encode row is that operation. A word of no encode row belongs, by
R82, to the decode rows of its length, whose mask is zero; the two of one length cannot be told apart by their bits, and
the first of the table is answered (DESIGN CHOICE, log 7). R82 has only words of 8 times their length in bits: the low
`nbits / 8` bytes of the number are read and its higher bits are not, so a word of another size (12 bits 0x006) is read
by those bytes against the encode rows (DESIGN CHOICE, log 13). -/
def decodeTableWord (nbits w : Nat) : Option Instr :=
  match decode .encoder (natToBytes (nbits / 8) w) with
  | .instr i => some i
  | .rejected _ =>
    if nbits = 32 then (decode .jedecId (natToBytes 4 w)).toOption
    else if nbits = 16 then (decode .status1 (natToBytes 2 w)).toOption
    else none

/-- The encode operation with its operands read from the input ports (R39); a port the operation does not name is not
read (R41). -/
def EncOp.atPorts (o : EncOp) (p : Inputs) : Instr :=
  match o with
  | .writeEnable => .writeEnable
  | .writeDisable => .writeDisable
  | .powerDown => .powerDown
  | .releasePowerDown => .releasePowerDown
  | .chipErase => .chipErase
  | .sectorErase => .sectorErase p.addr
  | .block32kErase => .block32kErase p.addr
  | .block64kErase => .block64kErase p.addr
  | .fastReadPrefix => .fastReadPrefix p.addr
  | .pageProgramPrefix => .pageProgramPrefix p.addr
  | .readJedecIdData => .readJedecIdData
  | .readStatusRegister1Data => .readStatusRegister1Data
  | .readStatusRegister2Data => .readStatusRegister2Data
  | .writeStatusRegister => .writeStatusRegister p.lsr

/-- The operation a presentation evaluates: at the encoder the one its selector code selects, none for the codes 14 and
15 (R40); at a decoder that decoder on its buffer port (R42). -/
def Presentation.instr (p : Presentation) : Option Instr :=
  match p.sel with
  | .encoder => (Machine.selectedOp p.inp.op).map (fun o => o.atPorts p.inp)
  | .jedecId => some (.getJedecId p.inp.jbuf)
  | .capacity => some (.getCapacity p.inp.jbuf)
  | .status1 => some (.getStatusRegister1 p.inp.s1buf)
  | .status2 => some (.getStatusRegister2 p.inp.s2buf)

/-- The input ports with an instruction's selector code and operands driven, the other ports as they were (DESIGN CHOICE,
log 11). -/
def Instr.drive (i : Instr) (p : Inputs) : Inputs :=
  match i with
  | .writeEnable => Machine.driveOp .writeEnable p
  | .writeDisable => Machine.driveOp .writeDisable p
  | .powerDown => Machine.driveOp .powerDown p
  | .releasePowerDown => Machine.driveOp .releasePowerDown p
  | .chipErase => Machine.driveOp .chipErase p
  | .sectorErase a => Machine.driveAddress .sectorErase a p
  | .block32kErase a => Machine.driveAddress .block32kErase a p
  | .block64kErase a => Machine.driveAddress .block64kErase a p
  | .fastReadPrefix a => Machine.driveAddress .fastReadPrefix a p
  | .pageProgramPrefix a => Machine.driveAddress .pageProgramPrefix a p
  | .readJedecIdData => Machine.driveOp .readJedecIdData p
  | .getJedecId buf => Machine.driveJbuf buf p
  | .getCapacity buf => Machine.driveJbuf buf p
  | .readStatusRegister1Data => Machine.driveOp .readStatusRegister1Data p
  | .getStatusRegister1 buf => Machine.driveS1buf buf p
  | .readStatusRegister2Data => Machine.driveOp .readStatusRegister2Data p
  | .getStatusRegister2 buf => Machine.driveS2buf buf p
  | .writeStatusRegister v => Machine.driveStatus .writeStatusRegister v p

/-- The presentation of an instruction over what else stands on the input ports: the encoder of `Presentation.instr`. -/
def present (i : Instr) (p : Inputs) : Presentation := { sel := i.select, inp := i.drive p }

end Sys2Proof
end

