-- ==== Sys2Proof/Machine/Flags.lean ====
section
/-! DEFINITION. Packing and unpacking the one-bit and three-bit fields of the two status registers
(spec 10_state.md R30 to R34, 30_encoding.md R73, 43_status_registers.md R122, R124). The block keeps no flag (R23). -/

namespace Sys2Proof.Machine

/-- `b2i` at width 8: true is 1, false is 0 (R10, R12). -/
def b2i (f : Bool) : Byte := if f then 1 else 0

/-- `pack_sr1` (R73): BP at bits 4:2, TB 5, SEC 6, SPR0 7; Busy (0) and WEL (1) are 0. -/
def packSr1 (bp : BlockProtect) (tb sec spr0 : Bool) : Byte :=
  (bp.setWidth 8 <<< 2) ||| (b2i tb <<< 5) ||| (b2i sec <<< 6) ||| (b2i spr0 <<< 7)

/-- `pack_sr2` (R73): SPR1 at bit 0, QE at bit 1; the reserved bits 6:2 and SUS (7) are 0. -/
def packSr2 (spr1 qe : Bool) : Byte := b2i spr1 ||| (b2i qe <<< 1)

/-- `unpack_sr1` (R122). -/
def unpackSr1 (b : Byte) : Status1 :=
  { busy := b.getLsbD 0
    wel := b.getLsbD 1
    bp := b.extractLsb' 2 3
    tb := b.getLsbD 5
    sec := b.getLsbD 6
    spr0 := b.getLsbD 7 }

/-- `unpack_sr2` (R124); bits 6:2 are dropped (R34). -/
def unpackSr2 (b : Byte) : Status2 :=
  { spr1 := b.getLsbD 0
    qe := b.getLsbD 1
    sus := b.getLsbD 7 }

end Sys2Proof.Machine
end

