-- ==== Sys2Proof/Machine/Ports.lean ====
section
/-! DEFINITION. The block as hardware: its output ports as a combinational function of its input ports
(spec 10_state.md R20, R39 to R42, 70_reset_and_hazards.md R160). It is written from the format and operation tables
(R71, R74), apart from the per-operation rules that the meanings follow. -/

namespace Sys2Proof.Machine

/-- The byte sequence the encoder emits for an operation with the operands on its ports (R71, R74). -/
def emittedSequence (o : EncOp) (p : Inputs) : List Byte :=
  match formatOf o with
  | .op => formatOp (opcodeOf o)
  | .opa => formatOpa (opcodeOf o) p.addr
  | .opad => formatOpad (opcodeOf o) p.addr
  | .rq4 => requestBuffer (opcodeOf o) 3
  | .rq2 => requestBuffer (opcodeOf o) 1
  | .wsr => formatWsr (opcodeOf o) (packSr1 p.lsr.bp p.lsr.tb p.lsr.sec p.lsr.spr0) (packSr2 p.lsr.spr1 p.lsr.qe)

/-- A sequence at the encoder's output ports: its length, its bytes in order, and 0x00 beyond it (R39, R41). -/
def encoderPorts (s : List Byte) : EncoderOut :=
  { len := BitVec.ofNat 3 s.length
    b1 := s.getD 0 0
    b2 := s.getD 1 0
    b3 := s.getD 2 0
    b4 := s.getD 3 0
    b5 := s.getD 4 0 }

/-- The sequence the output ports carry, "[b1, ..., bL] and nothing else" (R41). -/
def carriedSequence (e : EncoderOut) : List Byte := [e.b1, e.b2, e.b3, e.b4, e.b5].take e.len.toNat

/-- The encoder: the selected operation's sequence; codes 14 and 15 drive length 0 and zeros (R39, R40). -/
def encoder (p : Inputs) : EncoderOut :=
  match selectedOp p.op with
  | some o => encoderPorts (emittedSequence o p)
  | none => encoderPorts []

/-- The four decoders, always driven, position 1 of each buffer unread (R36, R42). The capacity port is one-hot:
`capacity[i] = 1` exactly when `i` is the capacity code (R112). -/
def decoder (p : Inputs) : DecoderOut :=
  { idManufacturer := p.jbuf.pos2
    idMemoryType := p.jbuf.pos3
    idCapacityCode := p.jbuf.pos4
    capacity := 1#256 <<< p.jbuf.pos4.toNat
    sr1 := unpackSr1 p.s1buf.pos2
    sr2 := unpackSr2 p.s2buf.pos2 }

/-- The whole block: every output is a function of the inputs presented at the same instant (R20). -/
def block (p : Inputs) : Outputs := { enc := encoder p, dec := decoder p }

end Sys2Proof.Machine
end

