-- ==== Sys2Proof/Machine/State.lean ====
section
/-! DEFINITION. The state. The block itself has none (spec 10_state.md R20: "its state type is the unit type"; R21 to
R25): State holds its ports at one instant, the outputs being a function of the inputs, and the caller's side, which the
spec places outside the block (R21, R22; 95_test_vectors.md part 3). DESIGN CHOICE, log 1. -/

namespace Sys2Proof.Machine

/-- The caller's side, no part of the block. -/
structure Caller where
  /-- The evaluations the caller still has to make, "in the caller's order" (R22). -/
  pending    : List Presentation
  /-- The results it got, in order: "the transcript of results, which is all there is to observe" (95 part 3). -/
  transcript : List Result
deriving DecidableEq, Repr

/-- The block's input and output ports, and the caller's side. -/
structure State where
  inp    : Inputs
  out    : Outputs
  caller : Caller
deriving DecidableEq, Repr

/-- The ways a step stops with a fault: none. "The set of exception causes is empty" (60_exceptions.md R140). -/
inductive Fault where
deriving DecidableEq, Repr

/-- The ways a step is refused. -/
inductive Refusal where
  /-- Raised by `exec` alone, for an instruction without a meaning; safe. Every instruction has one, so it is never
  raised. -/
  | notModelled (mnemonic : String)
deriving DecidableEq, Repr

/-- What stands on the input ports before the caller drives them: zeros. DESIGN CHOICE, log 2: the spec gives no value;
unsafe. -/
def resetInputs : Inputs :=
  { op := 0
    addr := 0
    lsr := { bp := 0, tb := false, sec := false, spr0 := false, spr1 := false, qe := false }
    jbuf := ⟨0, 0, 0, 0⟩
    s1buf := ⟨0, 0⟩
    s2buf := ⟨0, 0⟩ }

/-- The machine after reset: there is nothing to reset (R44, R160). "From the first instant its inputs are valid, its
outputs are the function of those inputs" (R160); the caller has made no evaluation and has none pending (log 5). -/
def State.reset : State :=
  { inp := resetInputs
    out := block resetInputs
    caller := { pending := [], transcript := [] } }

end Sys2Proof.Machine
end

