-- ==== Sys2Proof/Machine/Ops.lean ====
section
/-! DEFINITION. The shared operations on the state. The block has no memory, no trap entry and no return from one
(spec 20_memory.md R50, 60_exceptions.md R145, R146), so there is no operation for them. -/

namespace Sys2Proof.Machine

/-- The block settles: its outputs take the values its inputs give (10_state.md R20, R160). -/
def State.settle (s : State) : State := { s with out := block s.inp }

/-- The caller puts values on the input ports. The outputs follow when the block settles. -/
def State.drive (p : Inputs) (s : State) : State := { s with inp := p }

/-- The caller takes the first of its pending evaluations off its list. -/
def State.popPending (s : State) : State :=
  { s with caller := { s.caller with pending := s.caller.pending.tail } }

/-- The caller notes the value an evaluation returned. -/
def State.record (r : Result) (s : State) : State :=
  { s with caller := { s.caller with transcript := s.caller.transcript ++ [r] } }

/-- One evaluation, shared by every instruction: the caller drives the input ports, the block settles, and the
operation's value is returned to the caller (R13, R20). It cannot fail (R140). -/
def State.evaluate (p : Inputs) (r : Result) (s : State) : Host.Outcome State Fault Refusal :=
  .next (((s.drive p).settle).record r)

end Sys2Proof.Machine
end

