-- ==== Sys2Proof/Machine/Addressed.lean ====
section
/-! DEFINITION. The address-bearing instructions (spec 41_address_instructions.md R100 to R105): every 32-bit address is
accepted, its low 24 bits are sent unrounded, and no range is checked (R52, R58). -/

namespace Sys2Proof.Machine

/-- `Sector_Erase(addr)` (R100). -/
def sectorErase (addr : Address) : List Byte := formatOpa 0x20 addr
/-- `Block_32K_Erase(addr)` (R101). -/
def block32kErase (addr : Address) : List Byte := formatOpa 0x52 addr
/-- `Block_64K_Erase(addr)` (R102). -/
def block64kErase (addr : Address) : List Byte := formatOpa 0xD8 addr
/-- `Fast_Read_Prefix(addr)`, with the dummy byte at position 5 (R103). -/
def fastReadPrefix (addr : Address) : List Byte := formatOpad 0x0B addr
/-- `Page_Program_Prefix(addr)`; the payload is the caller's (R104, R66). -/
def pageProgramPrefix (addr : Address) : List Byte := formatOpa 0x02 addr

/-- Sector_Erase evaluated (R100). -/
def execSectorErase (addr : Address) (s : State) : Host.Outcome State Fault Refusal :=
  s.evaluate (driveAddress .sectorErase addr s.inp) (.bytes (sectorErase addr))

/-- Block_32K_Erase evaluated (R101). -/
def execBlock32kErase (addr : Address) (s : State) : Host.Outcome State Fault Refusal :=
  s.evaluate (driveAddress .block32kErase addr s.inp) (.bytes (block32kErase addr))

/-- Block_64K_Erase evaluated (R102). -/
def execBlock64kErase (addr : Address) (s : State) : Host.Outcome State Fault Refusal :=
  s.evaluate (driveAddress .block64kErase addr s.inp) (.bytes (block64kErase addr))

/-- Fast_Read_Prefix evaluated (R103). -/
def execFastReadPrefix (addr : Address) (s : State) : Host.Outcome State Fault Refusal :=
  s.evaluate (driveAddress .fastReadPrefix addr s.inp) (.bytes (fastReadPrefix addr))

/-- Page_Program_Prefix evaluated (R104). -/
def execPageProgramPrefix (addr : Address) (s : State) : Host.Outcome State Fault Refusal :=
  s.evaluate (driveAddress .pageProgramPrefix addr s.inp) (.bytes (pageProgramPrefix addr))

end Sys2Proof.Machine
end

