-- ==== Sys2Proof/Machine/Constant.lean ====
section
/-! DEFINITION. The constant one-byte instructions (spec 40_constant_instructions.md R90 to R95). -/

namespace Sys2Proof.Machine

/-- `Write_Enable()` (R90). -/
def writeEnable : List Byte := formatOp 0x06
/-- `Write_Disable()` (R91). -/
def writeDisable : List Byte := formatOp 0x04
/-- `Power_Down()` (R92). -/
def powerDown : List Byte := formatOp 0xB9
/-- `Release_Power_Down()`: the opcode alone, no longer form (R93). -/
def releasePowerDown : List Byte := formatOp 0xAB
/-- `Chip_Erase()` (R94). -/
def chipErase : List Byte := formatOp 0x60

/-- Write_Enable evaluated (R90). -/
def execWriteEnable (s : State) : Host.Outcome State Fault Refusal :=
  s.evaluate (driveOp .writeEnable s.inp) (.bytes writeEnable)

/-- Write_Disable evaluated (R91). -/
def execWriteDisable (s : State) : Host.Outcome State Fault Refusal :=
  s.evaluate (driveOp .writeDisable s.inp) (.bytes writeDisable)

/-- Power_Down evaluated (R92): "emitting this byte changes nothing in the block". -/
def execPowerDown (s : State) : Host.Outcome State Fault Refusal :=
  s.evaluate (driveOp .powerDown s.inp) (.bytes powerDown)

/-- Release_Power_Down evaluated (R93). -/
def execReleasePowerDown (s : State) : Host.Outcome State Fault Refusal :=
  s.evaluate (driveOp .releasePowerDown s.inp) (.bytes releasePowerDown)

/-- Chip_Erase evaluated (R94): no preceding Write_Enable is required, checked or emitted. -/
def execChipErase (s : State) : Host.Outcome State Fault Refusal :=
  s.evaluate (driveOp .chipErase s.inp) (.bytes chipErase)

end Sys2Proof.Machine
end

