-- ==== Sys2Proof/Machine/Jedec.lean ====
section
/-! DEFINITION. The JEDEC ID request, the ID and the capacity (spec 42_jedec_id.md R110 to R113). -/

namespace Sys2Proof.Machine

/-- `Read_JEDEC_ID_Data()`, the request buffer (R110). -/
def readJedecIdData : List Byte := requestBuffer 0x9F 3

/-- `Get_JEDEC_ID(buf)`: "bytes 2..4 of the buffer, opcode byte dropped" (R111). -/
def getJedecId (buf : Response4) : JedecId :=
  { manufacturer := buf.pos2, memoryType := buf.pos3, capacityCode := buf.pos4 }

/-- `Get_Capacity(buf)`: "2 raised to the power of byte 4", exact for every code (R112). -/
def getCapacity (buf : Response4) : Nat := 2 ^ buf.pos4.toNat

/-- Read_JEDEC_ID_Data evaluated (R110). -/
def execReadJedecIdData (s : State) : Host.Outcome State Fault Refusal :=
  s.evaluate (driveOp .readJedecIdData s.inp) (.bytes readJedecIdData)

/-- Get_JEDEC_ID evaluated (R111): the buffer stands on the port it shares with Get_Capacity (R42). -/
def execGetJedecId (buf : Response4) (s : State) : Host.Outcome State Fault Refusal :=
  s.evaluate (driveJbuf buf s.inp) (.jedecId (getJedecId buf))

/-- Get_Capacity evaluated (R112): the buffer stands on the port it shares with Get_JEDEC_ID (R42). -/
def execGetCapacity (buf : Response4) (s : State) : Host.Outcome State Fault Refusal :=
  s.evaluate (driveJbuf buf s.inp) (.capacity (getCapacity buf))

end Sys2Proof.Machine
end

