-- ==== Sys2Proof/Machine/StatusRegs.lean ====
section
/-! DEFINITION. Reading, unpacking and writing the status registers (spec 43_status_registers.md R120 to R130). There
is no combined read (R130). -/

namespace Sys2Proof.Machine

/-- `Read_Status_Register_1_Data()`, the request buffer (R120). -/
def readStatusRegister1Data : List Byte := requestBuffer 0x05 1

/-- `Get_Status_Register_1(buf)`: position 2 unpacked (R122). -/
def getStatusRegister1 (buf : Response2) : Status1 := unpackSr1 buf.pos2

/-- `Read_Status_Register_2_Data()`, the request buffer (R123). -/
def readStatusRegister2Data : List Byte := requestBuffer 0x35 1

/-- `Get_Status_Register_2(buf)`: position 2 unpacked, reserved bits dropped without a diagnostic (R124, R141). -/
def getStatusRegister2 (buf : Response2) : Status2 := unpackSr2 buf.pos2

/-- `Write_Status_Register(v)` (R125). -/
def writeStatusRegister (v : LogicalStatus) : List Byte :=
  formatWsr 0x01 (packSr1 v.bp v.tb v.sec v.spr0) (packSr2 v.spr1 v.qe)

/-- Read_Status_Register_1_Data evaluated (R120). -/
def execReadStatusRegister1Data (s : State) : Host.Outcome State Fault Refusal :=
  s.evaluate (driveOp .readStatusRegister1Data s.inp) (.bytes readStatusRegister1Data)

/-- Get_Status_Register_1 evaluated (R122). -/
def execGetStatusRegister1 (buf : Response2) (s : State) : Host.Outcome State Fault Refusal :=
  s.evaluate (driveS1buf buf s.inp) (.status1 (getStatusRegister1 buf))

/-- Read_Status_Register_2_Data evaluated (R123). -/
def execReadStatusRegister2Data (s : State) : Host.Outcome State Fault Refusal :=
  s.evaluate (driveOp .readStatusRegister2Data s.inp) (.bytes readStatusRegister2Data)

/-- Get_Status_Register_2 evaluated (R124). -/
def execGetStatusRegister2 (buf : Response2) (s : State) : Host.Outcome State Fault Refusal :=
  s.evaluate (driveS2buf buf s.inp) (.status2 (getStatusRegister2 buf))

/-- Write_Status_Register evaluated (R125). -/
def execWriteStatusRegister (v : LogicalStatus) (s : State) : Host.Outcome State Fault Refusal :=
  s.evaluate (driveStatus .writeStatusRegister v s.inp) (.bytes (writeStatusRegister v))

end Sys2Proof.Machine
end

