-- ==== Sys2Proof/Machine/Dispatch.lean ====
section
/-! DEFINITION. One arm for each operation of spec 30_encoding.md R74. -/

namespace Sys2Proof.Machine

/-- The evaluation of an instruction. -/
def exec (i : Instr) (s : State) : Host.Outcome State Fault Refusal :=
  match i with
  | .writeEnable => Sys2Proof.Machine.execWriteEnable s
  | .writeDisable => Sys2Proof.Machine.execWriteDisable s
  | .powerDown => Sys2Proof.Machine.execPowerDown s
  | .releasePowerDown => Sys2Proof.Machine.execReleasePowerDown s
  | .chipErase => Sys2Proof.Machine.execChipErase s
  | .sectorErase addr => Sys2Proof.Machine.execSectorErase addr s
  | .block32kErase addr => Sys2Proof.Machine.execBlock32kErase addr s
  | .block64kErase addr => Sys2Proof.Machine.execBlock64kErase addr s
  | .fastReadPrefix addr => Sys2Proof.Machine.execFastReadPrefix addr s
  | .pageProgramPrefix addr => Sys2Proof.Machine.execPageProgramPrefix addr s
  | .readJedecIdData => Sys2Proof.Machine.execReadJedecIdData s
  | .getJedecId buf => Sys2Proof.Machine.execGetJedecId buf s
  | .getCapacity buf => Sys2Proof.Machine.execGetCapacity buf s
  | .readStatusRegister1Data => Sys2Proof.Machine.execReadStatusRegister1Data s
  | .getStatusRegister1 buf => Sys2Proof.Machine.execGetStatusRegister1 buf s
  | .readStatusRegister2Data => Sys2Proof.Machine.execReadStatusRegister2Data s
  | .getStatusRegister2 buf => Sys2Proof.Machine.execGetStatusRegister2 buf s
  | .writeStatusRegister v => Sys2Proof.Machine.execWriteStatusRegister v s

end Sys2Proof.Machine
end

