-- ==== Sys2Proof/Machine/Step.lean ====
section
/-! DEFINITION. One step is one evaluation the caller makes. -/

namespace Sys2Proof.Machine

/-- One step: the caller presents the first of its pending evaluations at the input ports, the operation it selects is
evaluated, and the rest stays pending (spec 10_state.md R20, R22, R39, R42). The selector codes 14 and 15 select no
operation: the block settles, driving length 0, and no result is returned (R40). With nothing pending the ports keep
their inputs and the block goes on driving its outputs (R160; DESIGN CHOICE, log 4). -/
def step (s : State) : Host.Outcome State Fault Refusal :=
  match s.caller.pending with
  | [] => .next s.settle
  | p :: _ =>
    match p.instr with
    | some i => exec i (s.popPending.drive p.inp)
    | none => .next (s.popPending.drive p.inp).settle

/-- The state with an instruction placed first among the pending evaluations, its operands over what stands on the input
ports, so that the next step evaluates it (log 5). -/
def State.withInstr (s : State) (i : Instr) : State :=
  { s with caller := { s.caller with pending := present i s.inp :: s.caller.pending } }

/-- The state whose next step runs the instruction of an opcode-table word (log 5), as decodeTableWord reads it
(logs 6, 7 and 13); a word that stands for none places nothing. -/
def State.withFetchWord (s : State) (nbits w : Nat) : State :=
  match decodeTableWord nbits w with
  | some i => s.withInstr i
  | none => s

end Sys2Proof.Machine
end

