-- ==== Sys2Proof/Machine/Values.lean ====
section
/-! DEFINITION. The operations as the pure functions the spec writes, `Name(args)` (spec 00_scope.md R13, 30_encoding.md
R80), gathered under one name. -/

namespace Sys2Proof.Machine

/-- The value of an operation: a function of its operands alone (R13). -/
def valueOf : Instr → Result
  | .writeEnable => .bytes writeEnable
  | .writeDisable => .bytes writeDisable
  | .powerDown => .bytes powerDown
  | .releasePowerDown => .bytes releasePowerDown
  | .chipErase => .bytes chipErase
  | .sectorErase addr => .bytes (sectorErase addr)
  | .block32kErase addr => .bytes (block32kErase addr)
  | .block64kErase addr => .bytes (block64kErase addr)
  | .fastReadPrefix addr => .bytes (fastReadPrefix addr)
  | .pageProgramPrefix addr => .bytes (pageProgramPrefix addr)
  | .readJedecIdData => .bytes readJedecIdData
  | .getJedecId buf => .jedecId (getJedecId buf)
  | .getCapacity buf => .capacity (getCapacity buf)
  | .readStatusRegister1Data => .bytes readStatusRegister1Data
  | .getStatusRegister1 buf => .status1 (getStatusRegister1 buf)
  | .readStatusRegister2Data => .bytes readStatusRegister2Data
  | .getStatusRegister2 buf => .status2 (getStatusRegister2 buf)
  | .writeStatusRegister v => .bytes (writeStatusRegister v)

end Sys2Proof.Machine
end

