-- ==== Sys2Proof/Machine/Caller.lean ====
section
/-! DEFINITION. What the caller does around the block, as far as the spec defines it: the exchange primitive, the bytes
that follow a prefix, and the helpers the spec states its laws with. None of it is an operation of the block. -/

namespace Sys2Proof.Machine

/-- The exchange primitive (20_memory.md R60): `exchange(req)` returns a sequence of the same length with otherwise
unconstrained contents, so the device's bytes are free. -/
abbrev IsExchange (req resp : List Byte) : Prop := resp.length = req.length

/-- A 4-byte response buffer as a byte sequence (R9). -/
def bytesOf4 (buf : Response4) : List Byte := [buf.pos1, buf.pos2, buf.pos3, buf.pos4]

/-- A 2-byte response buffer as a byte sequence (R9). -/
def bytesOf2 (buf : Response2) : List Byte := [buf.pos1, buf.pos2]

/-- The bytes on the wire after a prefix: the block's, then the caller's payload (R66, R104). -/
def onTheWire (emitted payload : List Byte) : List Byte := emitted ++ payload

/-- `merge_lsr(r1, r2)` (43_status_registers.md R126): Busy, WEL and SUS are dropped. -/
def mergeLsr (r1 : Status1) (r2 : Status2) : LogicalStatus :=
  { bp := r1.bp, tb := r1.tb, sec := r1.sec, spr0 := r1.spr0, spr1 := r2.spr1, qe := r2.qe }

/-- `rb1(w) = [p, s1]` for a Write_Status_Register result `[0x01, s1, s2]` and any byte `p` (R127). -/
def rb1 (p : Byte) (w : List Byte) : Response2 := ⟨p, w.getD 1 0⟩

/-- `rb2(w) = [p, s2]` (R127). -/
def rb2 (p : Byte) (w : List Byte) : Response2 := ⟨p, w.getD 2 0⟩

end Sys2Proof.Machine
end

