-- ==== Sys2Proof/Safety.lean ====
section
/-! DEFINITION. What the claims call safe of the block, and the caller's obligations of spec 70_reset_and_hazards.md,
which the block does not check. -/

namespace Sys2Proof.Safety

/-- The outputs are the function of the inputs presented at the same instant, and of nothing else (10_state.md R20). -/
abbrev Settled (s : Machine.State) : Prop := s.out = Machine.block s.inp

/-- What an operation may return: a byte sequence that begins with one of the fourteen opcodes and has the length that
opcode fixes (R70, R71, R77), a power of two from 2^0 to 2^255 (R29), or any fields (R28, R30, R31). -/
def LegalResult : Result → Prop
  | .bytes w => ∃ o : EncOp, w.head? = some (Machine.opcodeOf o) ∧ w.length = Machine.formatLength (Machine.formatOf o)
  | .jedecId _ => True
  | .capacity n => ∃ c : Byte, n = 2 ^ c.toNat
  | .status1 _ => True
  | .status2 _ => True

/-- The invariant of every step: the outputs are settled, and every result the caller was given is legal. -/
structure Invariant (s : Machine.State) : Prop where
  settled : Settled s
  legal   : ∀ r ∈ s.caller.transcript, LegalResult r

/-- The destructive instructions (R165). -/
def destructive : Instr → Bool
  | .writeEnable => false
  | .writeDisable => false
  | .powerDown => false
  | .releasePowerDown => false
  | .chipErase => true
  | .sectorErase _ => true
  | .block32kErase _ => true
  | .block64kErase _ => true
  | .fastReadPrefix _ => false
  | .pageProgramPrefix _ => true
  | .readJedecIdData => false
  | .getJedecId _ => false
  | .getCapacity _ => false
  | .readStatusRegister1Data => false
  | .getStatusRegister1 _ => false
  | .readStatusRegister2Data => false
  | .getStatusRegister2 _ => false
  | .writeStatusRegister _ => true

/-- The caller's obligation "Write Enable must precede Erase" (R61, R165), in its weakest reading: some Write_Enable stands
before every destructive instruction. DESIGN CHOICE, log 12: whether one Write_Enable serves several, and when the device
clears WEL (by a Write_Disable, say, or after a destructive instruction), is not in the source (R165; 91_not_in_source.md
N3), and this reading lets one Write_Enable serve every later instruction and takes nothing to end it. -/
def writeEnabled (enabled : Bool) : List Instr → Bool
  | [] => true
  | i :: rest => (enabled || !destructive i) && writeEnabled (enabled || i == .writeEnable) rest

/-- The caller's obligation to keep addresses below the capacity (R164, R169). -/
def addressBelow (capacity : Nat) : Instr → Bool
  | .writeEnable => true
  | .writeDisable => true
  | .powerDown => true
  | .releasePowerDown => true
  | .chipErase => true
  | .sectorErase a => a.toNat < capacity
  | .block32kErase a => a.toNat < capacity
  | .block64kErase a => a.toNat < capacity
  | .fastReadPrefix a => a.toNat < capacity
  | .pageProgramPrefix a => a.toNat < capacity
  | .readJedecIdData => true
  | .getJedecId _ => true
  | .getCapacity _ => true
  | .readStatusRegister1Data => true
  | .getStatusRegister1 _ => true
  | .readStatusRegister2Data => true
  | .getStatusRegister2 _ => true
  | .writeStatusRegister _ => true

/-- The state whose caller has exactly this program to run, presented over the given input ports. -/
def withProgram (prog : List Instr) (p : Inputs) (s : Machine.State) : Machine.State :=
  { s with caller := { s.caller with pending := prog.map (fun i => present i p) } }

end Sys2Proof.Safety
end

