-- ==== Sys2Proof/Certificates/Slice0/Obligations.lean ====
section
/-! DEFINITION. The statements for the provers. An operation's result is the value that exec appends to the caller's
transcript; where the operation is an encode operation, the encoder's output ports carry the same sequence. -/

open Sys2Proof Sys2Proof.Machine Sys2Proof.Safety

/-! ## The encode operations -/

/-- R90 to R94: in every state each constant instruction completes and returns its one opcode byte. -/
def Obligations.ConstantInstructionsReturnTheirOpcode : Prop :=
  ∀ s : State, ∀ x ∈ [(Instr.writeEnable, (0x06 : Byte)), (.writeDisable, 0x04), (.powerDown, 0xB9),
      (.releasePowerDown, 0xAB), (.chipErase, 0x60)],
    ∃ t, exec x.1 s = .next t ∧ t.caller.transcript = s.caller.transcript ++ [.bytes [x.2]] ∧
      carriedSequence t.out.enc = [x.2]

/-- 40_constant_instructions.md, family law: at the ports the length is 1, position 1 is the opcode and the rest is 0x00
(the padding is the spec's decision D4); no two of the fourteen operations share an opcode. -/
def Obligations.ConstantInstructionsAtThePorts : Prop :=
  (∀ s : State, ∀ x ∈ [(Instr.writeEnable, (0x06 : Byte)), (.writeDisable, 0x04), (.powerDown, 0xB9),
      (.releasePowerDown, 0xAB), (.chipErase, 0x60)],
    ∃ t, exec x.1 s = .next t ∧ t.out.enc = { len := 1, b1 := x.2, b2 := 0, b3 := 0, b4 := 0, b5 := 0 }) ∧
  (∀ o o' : EncOp, opcodeOf o = opcodeOf o' → o = o')

/-- R100 to R104: for every 32-bit address, in every state, each address-bearing instruction completes and returns its
opcode, then addr[23:16], addr[15:8] and addr[7:0]; Fast_Read_Prefix appends the dummy 0x00. -/
def Obligations.AddressInstructionsEmitTheLow24Bits : Prop :=
  ∀ (a : Address) (s : State), ∀ x ∈ [(Instr.sectorErase a, (0x20 : Byte), ([] : List Byte)), (.block32kErase a, 0x52, []),
      (.block64kErase a, 0xD8, []), (.fastReadPrefix a, 0x0B, [0x00]), (.pageProgramPrefix a, 0x02, [])],
    ∃ t, exec x.1 s = .next t ∧
      t.caller.transcript = s.caller.transcript ++
        [.bytes ([x.2.1, a.extractLsb' 16 8, a.extractLsb' 8 8, a.extractLsb' 0 8] ++ x.2.2)] ∧
      carriedSequence t.out.enc = [x.2.1, a.extractLsb' 16 8, a.extractLsb' 8 8, a.extractLsb' 0 8] ++ x.2.2

/-- R105, its law: position 1 is the opcode, positions 2 to 4 are the big-endian truncation of the address, and position
5, of Fast_Read_Prefix alone, is 0x00. (The consequences R105 marks as derived are AddressOperationsAgreeOnTheLow24Bits.) -/
def Obligations.AddressBytesAreTheBigEndianTruncation : Prop :=
  ∀ (a : Address) (s : State), ∀ x ∈ [(Instr.sectorErase a, (0x20 : Byte)), (.block32kErase a, 0x52),
      (.block64kErase a, 0xD8), (.fastReadPrefix a, 0x0B), (.pageProgramPrefix a, 0x02)],
    ∃ (t : State) (b2 b3 b4 : Byte) (rest : List Byte), exec x.1 s = .next t ∧
      t.caller.transcript = s.caller.transcript ++ [.bytes (x.2 :: b2 :: b3 :: b4 :: rest)] ∧
      b2.toNat * 2 ^ 16 + b3.toNat * 2 ^ 8 + b4.toNat = a.toNat % 2 ^ 24 ∧
      rest = (if x.1 = .fastReadPrefix a then [0x00] else [])

/-- 41_address_instructions.md, the consequences of the family law: two addresses give one sequence exactly when they
agree modulo 2^24; the four `OPA` operations differ only at position 1; Fast_Read_Prefix cut to four positions is
Sector_Erase but for the opcode. -/
def Obligations.AddressOperationsAgreeOnTheLow24Bits : Prop :=
  (∀ F ∈ [sectorErase, block32kErase, block64kErase, fastReadPrefix, pageProgramPrefix], ∀ a b : Address,
    F a = F b ↔ a.toNat % 2 ^ 24 = b.toNat % 2 ^ 24) ∧
  (∀ F ∈ [sectorErase, block32kErase, block64kErase, pageProgramPrefix], ∀ a : Address,
    (F a).tail = (sectorErase a).tail) ∧
  (∀ a : Address, 0x20 :: ((fastReadPrefix a).take 4).tail = sectorErase a)

/-- 10_state.md R35 and 42, 43 (placeholders 0x00 are the spec's decision D6): each request buffer is its opcode and zeros. -/
def Obligations.RequestBuffersAreOpcodeAndZeros : Prop :=
  ∀ s : State, ∀ x ∈ [(Instr.readJedecIdData, ([0x9F, 0, 0, 0] : List Byte)), (.readStatusRegister1Data, [0x05, 0]),
      (.readStatusRegister2Data, [0x35, 0])],
    ∃ t, exec x.1 s = .next t ∧ t.caller.transcript = s.caller.transcript ++ [.bytes x.2] ∧
      carriedSequence t.out.enc = x.2

/-- 43_status_registers.md R125 (BP orientation is the spec's decision D10): Write_Status_Register returns 0x01, the packed Status Register 1 byte (BP at bits 4:2, TB 5, SEC 6, SPR0 7, bits
1:0 zero) and the packed Status Register 2 byte (SPR1 at bit 0, QE 1, bits 7:2 zero), for all 256 operands. -/
def Obligations.WriteStatusRegisterPacksItsFields : Prop :=
  ∀ (v : LogicalStatus) (s : State), ∃ (t : State) (s1 s2 : Byte),
    exec (.writeStatusRegister v) s = .next t ∧
    t.caller.transcript = s.caller.transcript ++ [.bytes [0x01, s1, s2]] ∧
    carriedSequence t.out.enc = [0x01, s1, s2] ∧
    s1.toNat = 4 * v.bp.toNat + 32 * v.tb.toNat + 64 * v.sec.toNat + 128 * v.spr0.toNat ∧
    s2.toNat = v.spr1.toNat + 2 * v.qe.toNat

/-- 30_encoding.md R73 (BP orientation is the spec's decision D10): pack_sr1 and pack_sr2 place each field at its bits; over all operands of Write_Status_Register, in any state,
position 2 takes exactly the 64 bytes whose low two bits are 00 and position 3 exactly 0x00 to 0x03. -/
def Obligations.PackingPlacesFieldsAndRangesExactly : Prop :=
  (∀ (bp : BlockProtect) (tb sec spr0 : Bool),
    (packSr1 bp tb sec spr0).toNat = 4 * bp.toNat + 32 * tb.toNat + 64 * sec.toNat + 128 * spr0.toNat) ∧
  (∀ spr1 qe : Bool, (packSr2 spr1 qe).toNat = spr1.toNat + 2 * qe.toNat) ∧
  (∀ (b : Byte) (s : State), (∃ v t, exec (.writeStatusRegister v) s = .next t ∧ t.out.enc.b2 = b ∧
    b = packSr1 v.bp v.tb v.sec v.spr0) ↔ b.toNat % 4 = 0) ∧
  (∀ (b : Byte) (s : State), (∃ v t, exec (.writeStatusRegister v) s = .next t ∧ t.out.enc.b3 = b ∧
    b = packSr2 v.spr1 v.qe) ↔ b.toNat ≤ 3)

/-- 10_state.md R33, its read-only clause: whatever stands on the input ports, a Write_Status_Register sequence has 0 at
Status Register 1 bits 0 and 1 (Busy, WEL) and at Status Register 2 bits 7 (SUS) and 6:2 (reserved). -/
def Obligations.NoInputSetsReadOnlyOrReservedBits : Prop :=
  ∀ p : Inputs, (block p).enc.len ≠ 0 → (block p).enc.b1 = 0x01 →
    (block p).enc.b2 &&& 0x03 = 0 ∧ (block p).enc.b3 &&& 0xFC = 0

/-! ## The decode operations -/

/-- R111: Get_JEDEC_ID completes on every buffer and returns positions 2, 3, 4, position 1 dropped. -/
def Obligations.JedecIdIsPositions2To4 : Prop :=
  ∀ (p m c d : Byte) (s : State), ∃ t, exec (.getJedecId ⟨p, m, c, d⟩) s = .next t ∧
    t.caller.transcript = s.caller.transcript ++ [.jedecId { manufacturer := m, memoryType := c, capacityCode := d }] ∧
    t.out.dec.idManufacturer = m ∧ t.out.dec.idMemoryType = c ∧ t.out.dec.idCapacityCode = d

/-- 42_jedec_id.md R112: Get_Capacity completes on every buffer and returns 2 to the power of byte 4, exactly; the 256-bit
port (the spec's decision D11) holds the same number and is one-hot; positions 1 to 3 have no effect (decision D9). -/
def Obligations.CapacityIsTwoToTheFourthByte : Prop :=
  ∀ (p m c d : Byte) (s : State), ∃ t, exec (.getCapacity ⟨p, m, c, d⟩) s = .next t ∧
    t.caller.transcript = s.caller.transcript ++ [.capacity (2 ^ d.toNat)] ∧
    t.out.dec.capacity.toNat = 2 ^ d.toNat ∧
    ∀ k < 256, t.out.dec.capacity.getLsbD k = true ↔ k = d.toNat

/-- 42_jedec_id.md, family laws: the capacity is 2 to the power of the ID's third byte, whatever the buffer. -/
def Obligations.CapacityFollowsTheIdsCapacityCode : Prop :=
  ∀ (buf : Response4) (s : State), ∃ (t u : State) (id : JedecId) (n : Nat),
    exec (.getJedecId buf) s = .next t ∧ t.caller.transcript = s.caller.transcript ++ [.jedecId id] ∧
    exec (.getCapacity buf) t = .next u ∧ u.caller.transcript = t.caller.transcript ++ [.capacity n] ∧
    n = 2 ^ id.capacityCode.toNat

/-- 43_status_registers.md R122 (BP orientation is the spec's decision D10, the ignored position 1 its D9):
Get_Status_Register_1 completes on every buffer, and its six fields are the bits of position 2, so that every byte is one
field tuple. -/
def Obligations.StatusRegister1FieldsAreTheBitsOfPosition2 : Prop :=
  ∀ (p b : Byte) (s : State), ∃ (t : State) (f : Status1),
    exec (.getStatusRegister1 ⟨p, b⟩) s = .next t ∧
    t.caller.transcript = s.caller.transcript ++ [.status1 f] ∧ t.out.dec.sr1 = f ∧
    b.toNat = f.busy.toNat + 2 * f.wel.toNat + 4 * f.bp.toNat + 32 * f.tb.toNat + 64 * f.sec.toNat + 128 * f.spr0.toNat

/-- 43_status_registers.md R124 (reserved bits ignored is the spec's decision D8, position 1 its D9): Get_Status_Register_2
completes on every buffer, SPR1, QE and SUS are bits 0, 1 and 7 of position 2, and bits 6:2 have no effect. -/
def Obligations.StatusRegister2FieldsIgnoreReservedBits : Prop :=
  ∀ (p b : Byte) (s : State), ∃ (t : State) (f : Status2),
    exec (.getStatusRegister2 ⟨p, b⟩) s = .next t ∧
    t.caller.transcript = s.caller.transcript ++ [.status2 f] ∧ t.out.dec.sr2 = f ∧
    f.spr1.toNat = b.toNat % 2 ∧ f.qe.toNat = b.toNat / 2 % 2 ∧ f.sus.toNat = b.toNat / 128 ∧
    ∀ c : Byte, unpackSr2 c = f ↔ c &&& 0x83 = b &&& 0x83

/-- R79: every 4-byte sequence is a valid input of Get_JEDEC_ID and Get_Capacity, every 2-byte sequence one of
Get_Status_Register_1 and Get_Status_Register_2, and each then completes in every state. -/
def Obligations.DecodersAreTotalOnAnyBytes : Prop :=
  (∀ w : List Byte, w.length = 4 → ∀ sel ∈ [Select.jedecId, .capacity],
    ∃ i, decode sel w = .instr i ∧ i.select = sel ∧ encode i = w ∧ ∀ s, ∃ t, exec i s = .next t) ∧
  (∀ w : List Byte, w.length = 2 → ∀ sel ∈ [Select.status1, .status2],
    ∃ i, decode sel w = .instr i ∧ i.select = sel ∧ encode i = w ∧ ∀ s, ∃ t, exec i s = .next t)

/-- 10_state.md R34, R36, R42 (decisions D8, D9): the decoder's outputs depend on positions 2 to 4 of the JEDEC buffer, on
position 2 of the Status Register 1 buffer and on bits 0, 1 and 7 of position 2 of the Status Register 2 buffer only. -/
def Obligations.DecoderReadsOnlyTheNamedBits : Prop :=
  ∀ p q : Inputs, p.jbuf.pos2 = q.jbuf.pos2 → p.jbuf.pos3 = q.jbuf.pos3 → p.jbuf.pos4 = q.jbuf.pos4 →
    p.s1buf.pos2 = q.s1buf.pos2 → p.s2buf.pos2 &&& 0x83 = q.s2buf.pos2 &&& 0x83 → (block p).dec = (block q).dec

/-! ## Status register laws -/

/-- 43_status_registers.md R128 (Busy and WEL false is the spec's resolution C5, the ignored position 1 its decision D9, the
helpers merge_lsr, rb1 and rb2 its decision D18): for every Logical Status Register, unpacking the two written bytes gives back its six fields, with Busy, WEL and
SUS false, whatever byte stands at position 1 of the response buffers. -/
def Obligations.WrittenStatusReadsBackEqual : Prop :=
  ∀ (v : LogicalStatus) (p q : Byte) (s : State), ∃ (t u1 u2 : State) (r1 : Status1) (r2 : Status2),
    exec (.writeStatusRegister v) s = .next t ∧
    exec (.getStatusRegister1 (rb1 p (carriedSequence t.out.enc))) t = .next u1 ∧
    u1.caller.transcript = t.caller.transcript ++ [.status1 r1] ∧
    exec (.getStatusRegister2 (rb2 q (carriedSequence t.out.enc))) u1 = .next u2 ∧
    u2.caller.transcript = u1.caller.transcript ++ [.status2 r2] ∧
    mergeLsr r1 r2 = v ∧ r1.busy = false ∧ r1.wel = false ∧ r2.sus = false

/-- 43_status_registers.md, the reverse composition: reading both registers, merging and writing back sends
[0x01, sr1 & 0xFC, sr2 & 0x03]. -/
def Obligations.WriteBackLosesReadOnlyAndReservedBits : Prop :=
  ∀ (buf1 buf2 : Response2) (s : State), ∃ (t1 t2 u : State) (r1 : Status1) (r2 : Status2),
    exec (.getStatusRegister1 buf1) s = .next t1 ∧ t1.caller.transcript = s.caller.transcript ++ [.status1 r1] ∧
    exec (.getStatusRegister2 buf2) t1 = .next t2 ∧ t2.caller.transcript = t1.caller.transcript ++ [.status2 r2] ∧
    exec (.writeStatusRegister (mergeLsr r1 r2)) t2 = .next u ∧
    u.caller.transcript = t2.caller.transcript ++ [.bytes [0x01, buf1.pos2 &&& 0xFC, buf2.pos2 &&& 0x03]]

/-! ## Exchanges -/

/-- 20_memory.md R60 (the free response is the spec's decision D20): whatever sequence of the same length the exchange of
the JEDEC request returns, Get_JEDEC_ID and Get_Capacity decode its last three bytes. -/
def Obligations.AnyExchangedJedecResponseDecodes : Prop :=
  ∀ (s : State) (resp : List Byte), IsExchange readJedecIdData resp →
    ∃ (buf : Response4) (r t u : State) (m c d : Byte), bytesOf4 buf = resp ∧ resp.drop 1 = [m, c, d] ∧
      exec .readJedecIdData s = .next r ∧ carriedSequence r.out.enc = readJedecIdData ∧
      exec (.getJedecId buf) r = .next t ∧ t.caller.transcript = r.caller.transcript ++ [.jedecId ⟨m, c, d⟩] ∧
      exec (.getCapacity buf) t = .next u ∧ u.caller.transcript = t.caller.transcript ++ [.capacity (2 ^ d.toNat)]

/-- 42_jedec_id.md and 70_reset_and_hazards.md, the hazard of a request that was sent but not exchanged: decoding the
request buffer itself completes and yields the placeholder values. -/
def Obligations.UnexchangedRequestsDecodeToPlaceholders : Prop :=
  ∀ s : State,
    (∀ buf : Response4, bytesOf4 buf = readJedecIdData →
      (∃ t, exec (.getJedecId buf) s = .next t ∧ t.caller.transcript = s.caller.transcript ++ [.jedecId ⟨0, 0, 0⟩]) ∧
      (∃ t, exec (.getCapacity buf) s = .next t ∧ t.caller.transcript = s.caller.transcript ++ [.capacity 1])) ∧
    (∀ buf : Response2, bytesOf2 buf = readStatusRegister1Data →
      ∃ t, exec (.getStatusRegister1 buf) s = .next t ∧
        t.caller.transcript = s.caller.transcript ++ [.status1 ⟨false, false, 0, false, false, false⟩]) ∧
    (∀ buf : Response2, bytesOf2 buf = readStatusRegister2Data →
      ∃ t, exec (.getStatusRegister2 buf) s = .next t ∧
        t.caller.transcript = s.caller.transcript ++ [.status2 ⟨false, false, false⟩])

/-! ## The ports -/

/-- 10_state.md R40 (the spec's decision D3): the table of the selector codes, code by code, each of which makes the encoder
emit its operation's opcode; the codes 14 and 15 select none, and on those the encoder drives length 0 and zeros. -/
def Obligations.SelectorCodesSelectTheirOperations : Prop :=
  (∀ x ∈ [(EncOp.writeEnable, (0 : BitVec 4), (0x06 : Byte)), (.writeDisable, 1, 0x04), (.powerDown, 2, 0xB9),
      (.releasePowerDown, 3, 0xAB), (.chipErase, 4, 0x60), (.sectorErase, 5, 0x20), (.block32kErase, 6, 0x52),
      (.block64kErase, 7, 0xD8), (.fastReadPrefix, 8, 0x0B), (.pageProgramPrefix, 9, 0x02),
      (.readJedecIdData, 10, 0x9F), (.readStatusRegister1Data, 11, 0x05), (.readStatusRegister2Data, 12, 0x35),
      (.writeStatusRegister, 13, 0x01)],
    selectorCode x.1 = x.2.1 ∧ selectedOp x.2.1 = some x.1 ∧
      ∀ p : Inputs, p.op = x.2.1 → (block p).enc.b1 = x.2.2 ∧ (block p).enc.len ≠ 0) ∧
  (∀ o : EncOp, selectedOp (selectorCode o) = some o) ∧
  (∀ c : BitVec 4, selectedOp c = none ↔ c = 14 ∨ c = 15) ∧
  (∀ p : Inputs, p.op = 14 ∨ p.op = 15 →
    (block p).enc = { len := 0, b1 := 0, b2 := 0, b3 := 0, b4 := 0, b5 := 0 })

/-- R70: position 1 of every sequence the encoder emits is the opcode of the selected operation, whatever the operands. -/
def Obligations.Position1IsTheOpcode : Prop :=
  ∀ (p : Inputs) (o : EncOp), selectedOp p.op = some o → (block p).enc.b1 = opcodeOf o ∧ (block p).enc.len ≠ 0

/-- R77: the encoder emits at position 1 exactly the fourteen opcodes and no other byte value; the unused selector codes
give length 0. -/
def Obligations.OnlyTheFourteenOpcodesAreEmitted : Prop :=
  (∀ b : Byte, (∃ p : Inputs, (block p).enc.len ≠ 0 ∧ (block p).enc.b1 = b) ↔
    b ∈ ([0x06, 0x04, 0xB9, 0xAB, 0x60, 0x20, 0x52, 0xD8, 0x0B, 0x02, 0x9F, 0x05, 0x35, 0x01] : List Byte)) ∧
  (∀ p : Inputs, 14 ≤ p.op.toNat → (block p).enc.len = 0)

/-- 30_encoding.md R75 (derived there): the byte at position 1 fixes the length of the emitted sequence. -/
def Obligations.Position1FixesTheLength : Prop :=
  ∀ p : Inputs, (block p).enc.len ≠ 0 →
    ∃ x ∈ [(1, ([0x06, 0x04, 0xB9, 0xAB, 0x60] : List Byte)), (2, [0x05, 0x35]), (3, [0x01]),
        (4, [0x20, 0x52, 0xD8, 0x02, 0x9F]), (5, [0x0B])],
      (block p).enc.b1 ∈ x.2 ∧ (block p).enc.len.toNat = x.1 ∧ (carriedSequence (block p).enc).length = x.1

/-- 10_state.md R41 (b) (the spec's decision D4): the output bytes beyond the length are 0x00. -/
def Obligations.BytesBeyondTheLengthAreZero : Prop :=
  ∀ p : Inputs, (block p).enc.len.toNat ≤ 5 ∧
    [(block p).enc.b1, (block p).enc.b2, (block p).enc.b3, (block p).enc.b4, (block p).enc.b5] =
      carriedSequence (block p).enc ++ List.replicate (5 - (block p).enc.len.toNat) 0

/-- 10_state.md R41 (a) (the spec's decision D5): the address matters only to the five address-bearing operations, and
there only modulo 2^24; the status ports matter only to Write_Status_Register; the buffers never matter to the encoder. -/
def Obligations.UnnamedInputsDoNotReachTheEncoder : Prop :=
  ∀ p q : Inputs, p.op = q.op →
    (selectedOp p.op ∈ [some EncOp.sectorErase, some .block32kErase, some .block64kErase, some .fastReadPrefix,
      some .pageProgramPrefix] → p.addr.toNat % 2 ^ 24 = q.addr.toNat % 2 ^ 24) →
    (selectedOp p.op = some .writeStatusRegister → p.lsr = q.lsr) → (block p).enc = (block q).enc

/-- 10_state.md R39 with 30_encoding.md R71 and R74: the encoder built from the format and operation tables carries, for
every input, the sequence that the selected operation's own rule returns. -/
def Obligations.EncoderPortsCarryTheOperationsValue : Prop :=
  ∀ (p : Inputs) (o : EncOp), selectedOp p.op = some o →
    valueOf (o.atPorts p) = .bytes (carriedSequence (block p).enc)

/-! ## Encodings -/

/-- 30_encoding.md R82: in every state an encode operation completes and emits, at the ports and as its result, the byte
sequence that its row of the opcode table encodes. -/
def Obligations.EmittedBytesMatchTheOpcodeTable : Prop :=
  ∀ (i : Instr) (s : State), i.select = .encoder → ∃ t, exec i s = .next t ∧
    t.caller.transcript = s.caller.transcript ++ [.bytes (encode i)] ∧ carriedSequence t.out.enc = encode i

/-- 30_encoding.md R75, R79, R82: decoding the byte sequence of any instruction gives it back with its address truncated to
24 bits, and gives it back itself when it is well-formed; no operand bit is dropped. -/
def Obligations.DecodeOfEncodeIsTheInstruction : Prop :=
  ∀ i : Instr, decode i.select (encode i) = .instr i.truncated ∧
    (WellFormed i → decode i.select (encode i) = .instr i)

/-- The strict wire decoder of the model (log 8, DEDUCED from 30_encoding.md sections 1 and 7 and 93_implementation_defined.md
U14; the block has no such decoder, and no rule says this of one): a byte sequence that decodes is the encoding of what it
decodes to, which is well-formed, so that no unwritable or reserved bit, no extra byte and no unknown opcode is accepted at
the encoder's function. -/
def Obligations.EncodeOfDecodeIsTheSequence : Prop :=
  ∀ (sel : Select) (w : List Byte) (i : Instr), decode sel w = .instr i →
    encode i = w ∧ WellFormed i ∧ i.select = sel

/-- 10_state.md R39, R40, R42 (the function evaluated is named in the presentation by the model's choice, log 3): an
instruction presented at the ports, over any other port values, is decoded as itself, with all 32 address bits. -/
def Obligations.PresentedInstructionIsDecoded : Prop :=
  ∀ (i : Instr) (p : Inputs), (present i p).instr = some i ∧ (present i p).wf = true

/-- A presentation, with the function evaluated named in it, is the model's choice (log 3), and so is its well-formedness
check (log 10); that the codes 14 and 15 select nothing is the spec's decision D3. A presentation selects an instruction
exactly when it is well-formed, that is unless it evaluates the encoder with the code 14 or 15, and presenting that
instruction again changes nothing. -/
def Obligations.WellFormedPresentationsSelect : Prop :=
  ∀ p : Presentation, (p.wf = true ↔ ∃ i, p.instr = some i) ∧ (∀ i, p.instr = some i → present i p.inp = p)

/-- 70_reset_and_hazards.md R164, R169: an address below a capacity of at most 2^24 is encoded without loss. -/
def Obligations.AddressesBelowTheCapacityLoseNothing : Prop :=
  ∀ (i : Instr) (n : Nat), n ≤ 2 ^ 24 → addressBelow n i = true → decode i.select (encode i) = .instr i

/-- 30_encoding.md R71, R82: words written out from the table's patterns decode to the instructions they stand for; and, by
the strictness of the model's wire decoder (log 8, DEDUCED; 93_implementation_defined.md U14), a written status byte with the
WEL bit set and the unknown first byte 0xFF are rejected by name. -/
def Obligations.WordsWrittenFromTheTableDecode : Prop :=
  decode .encoder [0b10111001] = .instr .powerDown ∧
  decode .encoder [0b00100000, 0b00010010, 0b00110100, 0b01010110] = .instr (.sectorErase 0x00123456) ∧
  decode .encoder [0b00001011, 0b10101011, 0b11001101, 0b11101111, 0b00000000] = .instr (.fastReadPrefix 0x00ABCDEF) ∧
  decode .encoder [0b00000001, 0b01010100, 0b00000001] =
    .instr (.writeStatusRegister { bp := 5, tb := false, sec := true, spr0 := false, spr1 := true, qe := false }) ∧
  decode .encoder [0b00000001, 0b01010110, 0b00000001] = .rejected (.fixedBitsDiffer .writeStatusRegister) ∧
  decode .encoder [0b11111111] = .rejected (.unknownOpcode 0xFF)

/-! ## The machine -/

/-- R140: every operation returns a value for every input of its type, in every state; no step stops; there is no fault. -/
def Obligations.EveryOperationReturnsItsValue : Prop :=
  (∀ (i : Instr) (s : State), ∃ t, exec i s = .next t ∧ t.caller.transcript = s.caller.transcript ++ [valueOf i] ∧
    t.caller.pending = s.caller.pending) ∧
  (∀ s : State, ∃ t, step s = .next t) ∧
  (∀ _ : Fault, False)

/-- R13: two evaluations with equal arguments, in any two states, return the same value, and for an encode operation the
encoder's ports are equal. -/
def Obligations.EqualArgumentsGiveEqualResults : Prop :=
  ∀ (i : Instr) (s s' : State), ∃ (t t' : State) (r : Result), exec i s = .next t ∧ exec i s' = .next t' ∧
    t.caller.transcript = s.caller.transcript ++ [r] ∧ t'.caller.transcript = s'.caller.transcript ++ [r] ∧
    (i.select = .encoder → t.out.enc = t'.out.enc)

/-- 10_state.md R20, 30_encoding.md R77, 10_state.md R29: every step keeps the invariant that the outputs are the function of
the inputs presented at the same instant and that every result the caller was given is legal. -/
def Obligations.EveryStepKeepsTheInvariant : Prop :=
  ∀ s t : State, Invariant s → step s = .next t → Invariant t

/-- 10_state.md R20: after every step and every operation, from any state whatever, the outputs are the function of the
inputs presented. (After an operation these are the former inputs with its operands driven: log 11, the model's choice.) -/
def Obligations.EveryEvaluationSettlesTheOutputs : Prop :=
  (∀ s : State, ∃ t, step s = .next t ∧ Settled t) ∧
  (∀ (i : Instr) (s : State), ∃ t, exec i s = .next t ∧ Settled t ∧ t.inp = i.drive s.inp)

/-- 70_reset_and_hazards.md R160: the state after reset meets the invariant (the reset inputs are the model's choice, log 2;
nothing pending and no result yet is its choice, logs 1 and 5). -/
def Obligations.ResetMeetsTheInvariant : Prop :=
  Invariant State.reset ∧ State.reset.caller.pending = [] ∧ State.reset.caller.transcript = []

/-- 10_state.md R22, R39, R40, R42 (one step is one pending evaluation, the model's choice, logs 3 to 5): a step presents
the first pending evaluation at the input ports and is exec of the instruction it decodes to; a selector code that selects
none settles the block and returns nothing; so does a step with nothing pending. -/
def Obligations.StepRunsThePresentedInstruction : Prop :=
  (∀ (s : State) (p : Presentation) (rest : List Presentation), s.caller.pending = p :: rest →
    (∀ i, p.instr = some i → step s =
      exec i { inp := p.inp, out := s.out, caller := { pending := rest, transcript := s.caller.transcript } }) ∧
    (p.instr = none → step s =
      .next { inp := p.inp, out := block p.inp, caller := { pending := rest, transcript := s.caller.transcript } })) ∧
  (∀ s : State, s.caller.pending = [] → step s = .next { s with out := block s.inp })

/-- The placing of a word (the model's choice, logs 5 to 7, and log 13 for a word of another size than a row's): the next
step after placing a word that decodes evaluates the instruction it decodes to, and returns its value. -/
def Obligations.PlacedWordRunsNext : Prop :=
  ∀ (s : State) (nbits w : Nat) (i : Instr), decodeTableWord nbits w = some i →
    ∃ t, step (s.withFetchWord nbits w) = .next t ∧
      t.caller.transcript = s.caller.transcript ++ [valueOf i] ∧ t.caller.pending = s.caller.pending

/-- 20_memory.md R59: evaluating two operations in either order gives the same two results. -/
def Obligations.EitherOrderGivesTheSameResults : Prop :=
  ∀ (i j : Instr) (s : State), ∃ (t t' u u' : State) (r q : Result),
    exec i s = .next t ∧ exec j t = .next t' ∧ t'.caller.transcript = s.caller.transcript ++ [r, q] ∧
    exec j s = .next u ∧ exec i u = .next u' ∧ u'.caller.transcript = s.caller.transcript ++ [q, r]

/-- 20_memory.md R53: an operation evaluated twice gives the same ports and the same result the second time. (That the ports
it does not name keep what they carried is the model's choice, log 11.) -/
def Obligations.EvaluatingTwiceChangesNothing : Prop :=
  ∀ (i : Instr) (s : State), ∃ (t u : State) (r : Result), exec i s = .next t ∧ exec i t = .next u ∧
    u.inp = t.inp ∧ u.out = t.out ∧ u.caller.transcript = s.caller.transcript ++ [r, r]

/-- 60_exceptions.md R154: evaluating Power_Down or Release_Power_Down does not change what the block does next: every operation
gives the same result and the same ports after it as without it. (For the ports it rests on the model's choice, log 11, that
ports an evaluation does not name keep what they carried.) -/
def Obligations.PowerDownDoesNotChangeTheBlock : Prop :=
  ∀ (i : Instr) (s : State), ∀ d ∈ [Instr.powerDown, .releasePowerDown], ∃ (t u v : State) (r : Result),
    exec d s = .next t ∧ exec i t = .next u ∧ exec i s = .next v ∧
    u.caller.transcript = t.caller.transcript ++ [r] ∧ v.caller.transcript = s.caller.transcript ++ [r] ∧
    u.out.dec = v.out.dec ∧ (i.select = .encoder → u.out = v.out)

/-- 20_memory.md R61: a destructive instruction is emitted without a preceding Write_Enable exactly as with one. (That the
decoder's ports are equal too rests on the model's choice, log 11, that ports an evaluation does not name keep what they
carried.) -/
def Obligations.DestructiveOperationsNeedNoWriteEnable : Prop :=
  ∀ (i : Instr) (s : State), destructive i = true → ∃ (w t u : State) (r : Result),
    exec .writeEnable s = .next w ∧ exec i w = .next t ∧ exec i s = .next u ∧
    t.caller.transcript = w.caller.transcript ++ [r] ∧ u.caller.transcript = s.caller.transcript ++ [r] ∧
    t.out = u.out

/-- 20_memory.md R61, 70_reset_and_hazards.md R165: a program that breaks the caller's obligation "Write Enable must precede
Erase" runs to its end, with exactly the results it has after a Write_Enable, with which it keeps the obligation. The
obligation is taken in the model's weakest reading (log 12: one Write_Enable serves all that follow and nothing ends it; the
source does not settle it, N3), and a run makes one pending evaluation a step, loaded from outside (logs 3 and 5). -/
def Obligations.UnenabledProgramsRunExactlyAsEnabledOnes : Prop :=
  ∀ (prog : List Instr) (p : Inputs) (s : State), writeEnabled false prog = false →
    ∃ (t t' : State) (rs : List Result),
      Sys2Proof.core.run prog.length (withProgram prog p s) = .next t ∧
      Sys2Proof.core.run (prog.length + 1) (withProgram (.writeEnable :: prog) p s) = .next t' ∧
      t.caller.transcript = s.caller.transcript ++ rs ∧
      t'.caller.transcript = s.caller.transcript ++ .bytes [0x06] :: rs ∧
      writeEnabled false (.writeEnable :: prog) = true

/-- 10_state.md R22, R20 and 95_test_vectors.md part 3: every list of operations the caller has pending, whatever they are
and whether or not the caller keeps its obligations (R164 to R169), runs to its end in as many steps, and the transcript
grows by the operations' values in the caller's order. That a step makes one evaluation, and that the list is loaded from
outside into the pending evaluations, is the model's choice (logs 3 and 5). -/
def Obligations.EveryProgramRunsToItsTranscript : Prop :=
  ∀ (prog : List Instr) (p : Inputs) (s : State), ∃ t : State,
    Sys2Proof.core.run prog.length (withProgram prog p s) = .next t ∧
    t.caller.transcript = s.caller.transcript ++ prog.map valueOf ∧ t.caller.pending = []

/-! ## Frames -/

/-- The model's choice (log 11: ports an evaluation does not name keep what they carried; the spec says only, in 10_state.md
R41, that they have no effect), with R42 for the outputs: what an encode operation leaves unchanged: the three response buffers, the address unless it is
an operand, the status ports unless they are, the pending evaluations, and every decoder output of a settled state. -/
def Obligations.EncodeOperationsFrame : Prop :=
  ∀ (i : Instr) (s : State), i.select = .encoder → ∃ t, exec i s = .next t ∧
    t.inp.jbuf = s.inp.jbuf ∧ t.inp.s1buf = s.inp.s1buf ∧ t.inp.s2buf = s.inp.s2buf ∧
    ((∀ a, i ∉ [.sectorErase a, .block32kErase a, .block64kErase a, .fastReadPrefix a, .pageProgramPrefix a]) →
      t.inp.addr = s.inp.addr) ∧
    ((∀ v, i ≠ .writeStatusRegister v) → t.inp.lsr = s.inp.lsr) ∧
    t.caller.pending = s.caller.pending ∧ t.caller.transcript.length = s.caller.transcript.length + 1 ∧
    (Settled s → t.out.dec = s.out.dec)

/-- The model's choice for the input ports (log 11: ports an evaluation does not name keep what they carried), 10_state.md R42
for the outputs: what Get_JEDEC_ID and Get_Capacity leave unchanged: every input port but the JEDEC buffer, which they
share, the pending evaluations, and every output of a settled state but those driven from that buffer. -/
def Obligations.JedecDecodersFrame : Prop :=
  ∀ (buf : Response4) (s : State), ∀ i ∈ [Instr.getJedecId buf, .getCapacity buf], ∃ t, exec i s = .next t ∧
    t.inp = { s.inp with jbuf := buf } ∧ t.caller.pending = s.caller.pending ∧
    t.caller.transcript.length = s.caller.transcript.length + 1 ∧
    (Settled s → t.out.enc = s.out.enc ∧ t.out.dec.sr1 = s.out.dec.sr1 ∧ t.out.dec.sr2 = s.out.dec.sr2)

/-- The model's choice for the input ports (log 11: ports an evaluation does not name keep what they carried), 10_state.md R42
for the outputs: what the status decoders leave unchanged: every input port but their own buffer, the pending
evaluations, and every output of a settled state but their own fields. -/
def Obligations.StatusDecodersFrame : Prop :=
  ∀ (buf : Response2) (s : State),
    (∃ t, exec (.getStatusRegister1 buf) s = .next t ∧ t.inp = { s.inp with s1buf := buf } ∧
      t.caller.pending = s.caller.pending ∧ t.caller.transcript.length = s.caller.transcript.length + 1 ∧
      (Settled s → t.out = { s.out with dec := { s.out.dec with sr1 := t.out.dec.sr1 } })) ∧
    (∃ t, exec (.getStatusRegister2 buf) s = .next t ∧ t.inp = { s.inp with s2buf := buf } ∧
      t.caller.pending = s.caller.pending ∧ t.caller.transcript.length = s.caller.transcript.length + 1 ∧
      (Settled s → t.out = { s.out with dec := { s.out.dec with sr2 := t.out.dec.sr2 } }))
end

