-- ==== Sys2Proof/Laws/Config.lean ====
section
/-! SUPPORT. The parameters of spec 00_scope.md R7 agree with the types and the formats that the model uses. -/

namespace Sys2Proof.Config

theorem byte_width : Byte = BitVec byteWidth := rfl
theorem address_width : Address = BitVec addressWidth := rfl
theorem blockProtect_width : BlockProtect = BitVec blockProtectWidth := rfl
theorem capacity_width : CapacityPort = BitVec capacityWidth := rfl
theorem selector_width : BitVec selectorWidth = BitVec 4 := rfl
theorem encoded_address_width : encodedAddressWidth = addressBytes * byteWidth := rfl
theorem address_bytes (a : Address) : (Machine.addressBytes a).length = addressBytes := rfl
theorem jedec_buffer_length : Machine.readJedecIdData.length = jedecBufferLength := rfl
theorem status_buffer_length : Machine.readStatusRegister1Data.length = statusBufferLength := rfl

/-- No format is longer than `MAX_LEN`, and Fast_Read_Prefix's is that long. -/
theorem max_length (f : Format) : Machine.formatLength f ≤ maxLength ∧ Machine.formatLength .opad = maxLength := by
  cases f <;> decide

end Sys2Proof.Config
end

