-- ==== Sys2Proof/Laws/Encoding.lean ====
section
/-! SUPPORT. Laws of the wire encoding: byte sequences and numbers, the address field and the fixed bits of the table's
rows. -/

namespace Sys2Proof

theorem natToBytes_length (n w : Nat) : (natToBytes n w).length = n := by
  induction n with
  | zero => rfl
  | succ n ih => simp [natToBytes, ih]

theorem foldl_bytes (s : List Byte) (a : Nat) :
    s.foldl (fun n b => n * 256 + b.toNat) a = a * 256 ^ s.length + bytesToNat s := by
  induction s generalizing a with
  | nil => simp [bytesToNat]
  | cons b s ih =>
    simp only [List.foldl_cons, bytesToNat, List.length_cons]
    rw [ih, ih (0 * 256 + b.toNat)]
    ring

theorem bytesToNat_cons (b : Byte) (s : List Byte) : bytesToNat (b :: s) = b.toNat * 256 ^ s.length + bytesToNat s := by
  simp only [bytesToNat, List.foldl_cons]
  rw [foldl_bytes]
  simp [bytesToNat]

theorem bytesToNat_lt (s : List Byte) : bytesToNat s < 256 ^ s.length := by
  induction s with
  | nil => simp [bytesToNat]
  | cons b s ih =>
    rw [bytesToNat_cons, List.length_cons, pow_succ]
    have := b.isLt
    calc b.toNat * 256 ^ s.length + bytesToNat s < (b.toNat + 1) * 256 ^ s.length := by linarith
      _ ≤ 256 ^ s.length * 256 := by rw [Nat.mul_comm]; exact Nat.mul_le_mul_left _ (by omega)

/-- Reading back the low `n` bytes of a number gives it modulo 256^n. -/
theorem bytesToNat_natToBytes (n w : Nat) : bytesToNat (natToBytes n w) = w % 256 ^ n := by
  induction n with
  | zero => simp [natToBytes, bytesToNat, Nat.mod_one]
  | succ n ih =>
    have h : w % (256 ^ n * 256) = w % 256 ^ n + 256 ^ n * (w / 256 ^ n % 256) := Nat.mod_mul
    rw [natToBytes, bytesToNat_cons, natToBytes_length, ih, BitVec.toNat_ofNat, pow_succ 256 n, h]
    exact (Nat.add_comm _ _).trans (congrArg _ (Nat.mul_comm _ _))

/-- The bytes of the number of a sequence are the sequence. -/
theorem natToBytes_bytesToNat (s : List Byte) (k : Nat) : natToBytes s.length (bytesToNat s + k * 256 ^ s.length) = s := by
  induction s generalizing k with
  | nil => rfl
  | cons b s ih =>
    rw [List.length_cons, natToBytes, bytesToNat_cons]
    have h : b.toNat * 256 ^ s.length + bytesToNat s + k * 256 ^ (s.length + 1) =
        bytesToNat s + (b.toNat + k * 256) * 256 ^ s.length := by ring
    rw [h, ih]
    congr 1
    rw [Nat.add_mul_div_right _ _ (by positivity), Nat.div_eq_of_lt (bytesToNat_lt s)]
    apply BitVec.eq_of_toNat_eq
    have := b.isLt
    simp
    omega

/-- The mask of the `OPA` rows reads the opcode byte. -/
theorem and_opcode4 (w : Nat) (h : w < 2 ^ 32) : w &&& 0xFF000000 = w / 2 ^ 24 * 2 ^ 24 := by
  have e : w &&& 0xFF000000 = (w >>> 24 &&& 0xFF) <<< 24 := by
    apply Nat.eq_of_testBit_eq
    intro n
    have : (0xFF000000 : Nat) = (2 ^ 8 - 1) <<< 24 := rfl
    have h2 : (0xFF : Nat) = 2 ^ 8 - 1 := rfl
    rw [this, h2]
    by_cases hn : 24 ≤ n
    · have : 24 + (n - 24) = n := by omega
      simp only [Nat.testBit_and, Nat.testBit_shiftLeft, Nat.testBit_shiftRight, this, hn, decide_true, Bool.true_and]
    · simp only [Nat.testBit_and, Nat.testBit_shiftLeft, hn, decide_false, Bool.false_and, Bool.and_false]
  rw [e, show (0xFF : Nat) = 2 ^ 8 - 1 from rfl, Nat.and_two_pow_sub_one_eq_mod, Nat.shiftRight_eq_div_pow,
    Nat.shiftLeft_eq, Nat.mod_eq_of_lt (by omega)]

/-- An address operand that fits 24 bits is read back as it was. -/
theorem ofNat_addressNumber {a : Address} (h : addressEncodable a = true) : BitVec.ofNat 32 (addressNumber a) = a := by
  simp only [addressEncodable, decide_eq_true_eq] at h
  apply BitVec.eq_of_toNat_eq
  simp [addressNumber]
  omega

/-- A well-formed instruction is its own truncation. -/
theorem truncated_of_wellFormed {i : Instr} (h : WellFormed i) : i.truncated = i := by
  cases i <;> first
    | rfl
    | (simp only [Instr.truncated]; rw [ofNat_addressNumber h])

end Sys2Proof
end

