-- ==== Sys2Proof/Laws/State.lean ====
section
/-! SUPPORT. One lemma for each field and each update of the state, and what the shared operations can do. -/

namespace Sys2Proof.Machine

@[simp] theorem State.settle_inp (s : State) : s.settle.inp = s.inp := rfl
@[simp] theorem State.settle_out (s : State) : s.settle.out = block s.inp := rfl
@[simp] theorem State.settle_caller (s : State) : s.settle.caller = s.caller := rfl

@[simp] theorem State.drive_inp (p : Inputs) (s : State) : (s.drive p).inp = p := rfl
@[simp] theorem State.drive_out (p : Inputs) (s : State) : (s.drive p).out = s.out := rfl
@[simp] theorem State.drive_caller (p : Inputs) (s : State) : (s.drive p).caller = s.caller := rfl

@[simp] theorem State.popPending_inp (s : State) : s.popPending.inp = s.inp := rfl
@[simp] theorem State.popPending_out (s : State) : s.popPending.out = s.out := rfl
@[simp] theorem State.popPending_pending (s : State) : s.popPending.caller.pending = s.caller.pending.tail := rfl
@[simp] theorem State.popPending_transcript (s : State) : s.popPending.caller.transcript = s.caller.transcript := rfl

@[simp] theorem State.record_inp (r : Result) (s : State) : (s.record r).inp = s.inp := rfl
@[simp] theorem State.record_out (r : Result) (s : State) : (s.record r).out = s.out := rfl
@[simp] theorem State.record_pending (r : Result) (s : State) : (s.record r).caller.pending = s.caller.pending := rfl
@[simp] theorem State.record_transcript (r : Result) (s : State) :
    (s.record r).caller.transcript = s.caller.transcript ++ [r] := rfl

@[simp] theorem driveOp_op (o : EncOp) (p : Inputs) : (driveOp o p).op = selectorCode o := rfl
@[simp] theorem driveOp_addr (o : EncOp) (p : Inputs) : (driveOp o p).addr = p.addr := rfl
@[simp] theorem driveOp_lsr (o : EncOp) (p : Inputs) : (driveOp o p).lsr = p.lsr := rfl
@[simp] theorem driveOp_jbuf (o : EncOp) (p : Inputs) : (driveOp o p).jbuf = p.jbuf := rfl
@[simp] theorem driveOp_s1buf (o : EncOp) (p : Inputs) : (driveOp o p).s1buf = p.s1buf := rfl
@[simp] theorem driveOp_s2buf (o : EncOp) (p : Inputs) : (driveOp o p).s2buf = p.s2buf := rfl

@[simp] theorem driveAddress_op (o : EncOp) (a : Address) (p : Inputs) : (driveAddress o a p).op = selectorCode o := rfl
@[simp] theorem driveAddress_addr (o : EncOp) (a : Address) (p : Inputs) : (driveAddress o a p).addr = a := rfl
@[simp] theorem driveAddress_lsr (o : EncOp) (a : Address) (p : Inputs) : (driveAddress o a p).lsr = p.lsr := rfl
@[simp] theorem driveAddress_jbuf (o : EncOp) (a : Address) (p : Inputs) : (driveAddress o a p).jbuf = p.jbuf := rfl
@[simp] theorem driveAddress_s1buf (o : EncOp) (a : Address) (p : Inputs) : (driveAddress o a p).s1buf = p.s1buf := rfl
@[simp] theorem driveAddress_s2buf (o : EncOp) (a : Address) (p : Inputs) : (driveAddress o a p).s2buf = p.s2buf := rfl

@[simp] theorem driveStatus_op (o : EncOp) (v : LogicalStatus) (p : Inputs) : (driveStatus o v p).op = selectorCode o := rfl
@[simp] theorem driveStatus_addr (o : EncOp) (v : LogicalStatus) (p : Inputs) : (driveStatus o v p).addr = p.addr := rfl
@[simp] theorem driveStatus_lsr (o : EncOp) (v : LogicalStatus) (p : Inputs) : (driveStatus o v p).lsr = v := rfl
@[simp] theorem driveStatus_jbuf (o : EncOp) (v : LogicalStatus) (p : Inputs) : (driveStatus o v p).jbuf = p.jbuf := rfl
@[simp] theorem driveStatus_s1buf (o : EncOp) (v : LogicalStatus) (p : Inputs) : (driveStatus o v p).s1buf = p.s1buf := rfl
@[simp] theorem driveStatus_s2buf (o : EncOp) (v : LogicalStatus) (p : Inputs) : (driveStatus o v p).s2buf = p.s2buf := rfl

@[simp] theorem driveJbuf_op (b : Response4) (p : Inputs) : (driveJbuf b p).op = p.op := rfl
@[simp] theorem driveJbuf_addr (b : Response4) (p : Inputs) : (driveJbuf b p).addr = p.addr := rfl
@[simp] theorem driveJbuf_lsr (b : Response4) (p : Inputs) : (driveJbuf b p).lsr = p.lsr := rfl
@[simp] theorem driveJbuf_jbuf (b : Response4) (p : Inputs) : (driveJbuf b p).jbuf = b := rfl
@[simp] theorem driveJbuf_s1buf (b : Response4) (p : Inputs) : (driveJbuf b p).s1buf = p.s1buf := rfl
@[simp] theorem driveJbuf_s2buf (b : Response4) (p : Inputs) : (driveJbuf b p).s2buf = p.s2buf := rfl

@[simp] theorem driveS1buf_op (b : Response2) (p : Inputs) : (driveS1buf b p).op = p.op := rfl
@[simp] theorem driveS1buf_addr (b : Response2) (p : Inputs) : (driveS1buf b p).addr = p.addr := rfl
@[simp] theorem driveS1buf_lsr (b : Response2) (p : Inputs) : (driveS1buf b p).lsr = p.lsr := rfl
@[simp] theorem driveS1buf_jbuf (b : Response2) (p : Inputs) : (driveS1buf b p).jbuf = p.jbuf := rfl
@[simp] theorem driveS1buf_s1buf (b : Response2) (p : Inputs) : (driveS1buf b p).s1buf = b := rfl
@[simp] theorem driveS1buf_s2buf (b : Response2) (p : Inputs) : (driveS1buf b p).s2buf = p.s2buf := rfl

@[simp] theorem driveS2buf_op (b : Response2) (p : Inputs) : (driveS2buf b p).op = p.op := rfl
@[simp] theorem driveS2buf_addr (b : Response2) (p : Inputs) : (driveS2buf b p).addr = p.addr := rfl
@[simp] theorem driveS2buf_lsr (b : Response2) (p : Inputs) : (driveS2buf b p).lsr = p.lsr := rfl
@[simp] theorem driveS2buf_jbuf (b : Response2) (p : Inputs) : (driveS2buf b p).jbuf = p.jbuf := rfl
@[simp] theorem driveS2buf_s1buf (b : Response2) (p : Inputs) : (driveS2buf b p).s1buf = p.s1buf := rfl
@[simp] theorem driveS2buf_s2buf (b : Response2) (p : Inputs) : (driveS2buf b p).s2buf = b := rfl

/-- Everything an evaluation can do: it answers a next state, with the inputs driven, the outputs settled and the result
recorded, and leaves the rest of the caller's list alone. -/
theorem State.evaluate_next {p : Inputs} {r : Result} {s t : State} (h : s.evaluate p r = .next t) :
    t.inp = p ∧ t.out = block p ∧ t.caller.pending = s.caller.pending ∧
      t.caller.transcript = s.caller.transcript ++ [r] := by
  cases h
  exact ⟨rfl, rfl, rfl, rfl⟩

end Sys2Proof.Machine
end

