-- ==== Sys2Proof/Laws/Exec.lean ====
section
/-! SUPPORT. What an evaluation is, for every instruction at once: later proofs cite `exec_eq_evaluate` and do not unfold
`exec`. -/

namespace Sys2Proof.Machine

/-- Every meaning is one evaluation: its operands driven, its value returned. -/
theorem exec_eq_evaluate (i : Instr) (s : State) : exec i s = s.evaluate (i.drive s.inp) (valueOf i) := by
  cases i <;> rfl

/-- The selector port decodes its own codes (R40). -/
@[simp] theorem selectedOp_selectorCode (o : EncOp) : selectedOp (selectorCode o) = some o := by
  cases o <;> rfl

/-- A step with nothing pending. -/
theorem step_nil {s : State} (h : s.caller.pending = []) : step s = .next s.settle := by
  simp [step, h]

/-- A step whose first pending evaluation selects an instruction. -/
theorem step_instr {s : State} {p : Presentation} {rest : List Presentation} {i : Instr}
    (h : s.caller.pending = p :: rest) (hi : p.instr = some i) :
    step s = exec i (s.popPending.drive p.inp) := by
  simp [step, h, hi]

/-- A step whose first pending evaluation selects no operation. -/
theorem step_none {s : State} {p : Presentation} {rest : List Presentation}
    (h : s.caller.pending = p :: rest) (hi : p.instr = none) :
    step s = .next (s.popPending.drive p.inp).settle := by
  simp [step, h, hi]

end Sys2Proof.Machine
end

