-- ==== Sys2Proof/Laws/PerInstr.lean ====
section
/-! SUPPORT. Statements made for each instruction as syntax. Family EncodeLength: the byte sequence an instruction
encodes to has the length its operation fixes, whatever the operands (spec 10_state.md R26, 30_encoding.md R71). -/

namespace Sys2Proof.Laws.EncodeLength

/-- The length of the encoding depends on the operation alone. -/
def Statement (i : Instr) : Prop := (encode i).length = i.lengthBytes

theorem writeEnable : Statement .writeEnable := rfl
theorem writeDisable : Statement .writeDisable := rfl
theorem powerDown : Statement .powerDown := rfl
theorem releasePowerDown : Statement .releasePowerDown := rfl
theorem chipErase : Statement .chipErase := rfl
theorem sectorErase (addr : Address) : Statement (.sectorErase addr) := rfl
theorem block32kErase (addr : Address) : Statement (.block32kErase addr) := rfl
theorem block64kErase (addr : Address) : Statement (.block64kErase addr) := rfl
theorem fastReadPrefix (addr : Address) : Statement (.fastReadPrefix addr) := rfl
theorem pageProgramPrefix (addr : Address) : Statement (.pageProgramPrefix addr) := rfl
theorem readJedecIdData : Statement .readJedecIdData := rfl
theorem getJedecId (buf : Response4) : Statement (.getJedecId buf) := rfl
theorem getCapacity (buf : Response4) : Statement (.getCapacity buf) := rfl
theorem readStatusRegister1Data : Statement .readStatusRegister1Data := rfl
theorem getStatusRegister1 (buf : Response2) : Statement (.getStatusRegister1 buf) := rfl
theorem readStatusRegister2Data : Statement .readStatusRegister2Data := rfl
theorem getStatusRegister2 (buf : Response2) : Statement (.getStatusRegister2 buf) := rfl
theorem writeStatusRegister (v : LogicalStatus) : Statement (.writeStatusRegister v) := rfl

end Sys2Proof.Laws.EncodeLength
end

