-- ==== Sys2Proof/Laws/Run.lean ====
section
/-! SUPPORT. A run of the machine unfolds one step at a time. -/

namespace Sys2Proof.Machine

theorem run_zero (s : State) : Sys2Proof.core.run 0 s = .next s := rfl

theorem run_succ_of_next {k : Nat} {s t : State} (h : step s = .next t) :
    Sys2Proof.core.run (k + 1) s = Sys2Proof.core.run k t := by
  have h' : Sys2Proof.core.step s = .next t := h
  simp only [Host.Core.run, h']

end Sys2Proof.Machine
end

