-- ==== Sys2Proof/Laws/Safety.lean ====
section
/-! SUPPORT. Laws of the safety predicates. -/

namespace Sys2Proof.Safety

/-- Settling settles. -/
theorem settled_settle (s : Machine.State) : Settled s.settle := rfl

/-- An evaluation leaves the outputs settled, whatever they were before. -/
theorem settled_of_exec {i : Instr} {s t : Machine.State} (h : Machine.exec i s = .next t) : Settled t := by
  rw [Machine.exec_eq_evaluate] at h
  obtain ⟨hi, ho, -, -⟩ := Machine.State.evaluate_next h
  rw [Settled, ho, hi]

/-- After a Write_Enable no program breaks the obligation. -/
theorem writeEnabled_true (prog : List Instr) : writeEnabled true prog = true := by
  induction prog with
  | nil => rfl
  | cons i rest ih => simp [writeEnabled, ih]

/-- The first pending evaluation of a program is its first instruction. -/
theorem withProgram_cons (i : Instr) (rest : List Instr) (p : Inputs) (s : Machine.State) :
    (withProgram (i :: rest) p s).caller.pending = present i p :: rest.map (fun j => present j p) := rfl

end Sys2Proof.Safety
end

