-- ==== Sys2Proof/Tests/Slice0.lean ====
section
/-! SUPPORT. The model's own tests. Expected values are those of spec/95_test_vectors.md (S1 to S7, parts 2.1 to 2.4, P1
to P5) and of the patterns of spec/opcode_table.json, written out by hand; none is the model's own answer. -/

namespace Sys2Proof.Tests

open Sys2Proof.Machine Sys2Proof.Safety

/-- The result an evaluation from reset returns. -/
def resultOf (i : Instr) : Option Result :=
  match exec i State.reset with
  | .next t => t.caller.transcript.getLast?
  | .fault _ => none
  | .refused _ => none

/-- The encoder's output ports after an evaluation from reset. -/
def portsOf (i : Instr) : Option EncoderOut :=
  match exec i State.reset with
  | .next t => some t.out.enc
  | .fault _ => none
  | .refused _ => none

/-- A Logical Status Register in the order of the vectors' columns. -/
def lsr (bp : BlockProtect) (tb sec spr0 spr1 qe : Bool) : LogicalStatus := ⟨bp, tb, sec, spr0, spr1, qe⟩

/-! ### Well-formedness refuses what the encodings cannot hold -/

theorem test_wf_refuses_sectorErase : Instr.wf (.sectorErase 0x01000000) = false := by decide
theorem test_wf_refuses_block32kErase : Instr.wf (.block32kErase 0x80000000) = false := by decide
theorem test_wf_refuses_block64kErase : Instr.wf (.block64kErase 0xFF000000) = false := by decide
theorem test_wf_refuses_fastReadPrefix : Instr.wf (.fastReadPrefix 0x12345678) = false := by decide
theorem test_wf_refuses_pageProgramPrefix : Instr.wf (.pageProgramPrefix 0xFFFFFFFF) = false := by decide
theorem test_wf_accepts_largest_offset : Instr.wf (.sectorErase 0x00FFFFFF) = true := by decide
theorem test_wf_refuses_selector_14 : Presentation.wf ⟨.encoder, { resetInputs with op := 14 }⟩ = false := by decide
theorem test_wf_refuses_selector_15 : Presentation.wf ⟨.encoder, { resetInputs with op := 15 }⟩ = false := by decide
theorem test_wf_accepts_selector_13 : Presentation.wf ⟨.encoder, { resetInputs with op := 13 }⟩ = true := by decide

/-! ### Every constructor's decoding, by a sequence written out bit by bit from the table's pattern -/

theorem test_decode_writeEnable : decode .encoder [0b00000110] = .instr .writeEnable := by decide
theorem test_decode_writeDisable : decode .encoder [0b00000100] = .instr .writeDisable := by decide
theorem test_decode_powerDown : decode .encoder [0b10111001] = .instr .powerDown := by decide
theorem test_decode_releasePowerDown : decode .encoder [0b10101011] = .instr .releasePowerDown := by decide
theorem test_decode_chipErase : decode .encoder [0b01100000] = .instr .chipErase := by decide
theorem test_decode_sectorErase :
    decode .encoder [0b00100000, 0b00010010, 0b00110100, 0b01010110] = .instr (.sectorErase 0x00123456) := by decide
theorem test_decode_block32kErase :
    decode .encoder [0b01010010, 0b00000000, 0b10000000, 0b00000000] = .instr (.block32kErase 0x00008000) := by decide
theorem test_decode_block64kErase :
    decode .encoder [0b11011000, 0b00000001, 0b00000000, 0b00000000] = .instr (.block64kErase 0x00010000) := by decide
theorem test_decode_fastReadPrefix :
    decode .encoder [0b00001011, 0b10101011, 0b11001101, 0b11101111, 0b00000000] =
      .instr (.fastReadPrefix 0x00ABCDEF) := by decide
theorem test_decode_pageProgramPrefix :
    decode .encoder [0b00000010, 0b00000000, 0b00000001, 0b00000000] = .instr (.pageProgramPrefix 0x00000100) := by decide
theorem test_decode_readJedecIdData :
    decode .encoder [0b10011111, 0b00000000, 0b00000000, 0b00000000] = .instr .readJedecIdData := by decide
theorem test_decode_getJedecId :
    decode .jedecId [0b10011111, 0b11101111, 0b01000000, 0b00010101] = .instr (.getJedecId ⟨0x9F, 0xEF, 0x40, 0x15⟩) := by
  decide
theorem test_decode_getCapacity :
    decode .capacity [0b10011111, 0b11101111, 0b01000000, 0b00010101] = .instr (.getCapacity ⟨0x9F, 0xEF, 0x40, 0x15⟩) := by
  decide
theorem test_decode_readStatusRegister1Data :
    decode .encoder [0b00000101, 0b00000000] = .instr .readStatusRegister1Data := by decide
theorem test_decode_getStatusRegister1 :
    decode .status1 [0b11111111, 0b10000011] = .instr (.getStatusRegister1 ⟨0xFF, 0x83⟩) := by decide
theorem test_decode_readStatusRegister2Data :
    decode .encoder [0b00110101, 0b00000000] = .instr .readStatusRegister2Data := by decide
theorem test_decode_getStatusRegister2 :
    decode .status2 [0b00110101, 0b10000010] = .instr (.getStatusRegister2 ⟨0x35, 0x82⟩) := by decide
theorem test_decode_writeStatusRegister :
    decode .encoder [0b00000001, 0b10101100, 0b00000010] =
      .instr (.writeStatusRegister (lsr 3 true false true false true)) := by decide

/-! ### Rejections by name -/

theorem test_reject_empty : decode .encoder [] = .rejected .emptySequence := by decide
theorem test_reject_unknown_opcode : decode .encoder [0xC7] = .rejected (.unknownOpcode 0xC7) := by decide
theorem test_reject_short_fastRead :
    decode .encoder [0x0B, 0xAB, 0xCD, 0xEF] = .rejected (.wrongLength .fastReadPrefix) := by decide
theorem test_reject_dummy_not_zero :
    decode .encoder [0x0B, 0xAB, 0xCD, 0xEF, 0xFF] = .rejected (.fixedBitsDiffer .fastReadPrefix) := by decide
theorem test_reject_sus_written : decode .encoder [0x01, 0x00, 0x80] = .rejected (.fixedBitsDiffer .writeStatusRegister) := by
  decide
theorem test_reject_response_length : decode .jedecId [0x9F, 0xEF] = .rejected (.wrongResponseLength .jedecId) := by decide

/-! ### Table words -/

theorem test_tableWord_sectorErase : decodeTableWord 32 0x20123456 = some (.sectorErase 0x00123456) := by decide
theorem test_tableWord_fastReadPrefix : decodeTableWord 40 0x0B00000000 = some (.fastReadPrefix 0) := by decide
theorem test_tableWord_readJedecIdData : decodeTableWord 32 0x9F000000 = some .readJedecIdData := by decide
theorem test_tableWord_decode_row_4 : decodeTableWord 32 0 = some (.getJedecId ⟨0, 0, 0, 0⟩) := by decide
theorem test_tableWord_decode_row_2 : decodeTableWord 16 0 = some (.getStatusRegister1 ⟨0, 0⟩) := by decide
theorem test_tableWord_unknown : decodeTableWord 8 0xC7 = none := by decide

/-! ### Results (95_test_vectors.md) -/

theorem test_writeEnable : resultOf .writeEnable = some (.bytes [0x06]) := by decide
theorem test_writeDisable : resultOf .writeDisable = some (.bytes [0x04]) := by decide
theorem test_powerDown : resultOf .powerDown = some (.bytes [0xB9]) := by decide
theorem test_releasePowerDown : resultOf .releasePowerDown = some (.bytes [0xAB]) := by decide
theorem test_chipErase : resultOf .chipErase = some (.bytes [0x60]) := by decide
theorem test_chipErase_ports : portsOf .chipErase = some ⟨1, 0x60, 0, 0, 0, 0⟩ := by decide
theorem test_sectorErase_drops_upper_byte :
    resultOf (.sectorErase 0x12345678) = some (.bytes [0x20, 0x34, 0x56, 0x78]) := by decide
theorem test_sectorErase_not_rounded :
    resultOf (.sectorErase 0x0001FFF0) = some (.bytes [0x20, 0x01, 0xFF, 0xF0]) := by decide
theorem test_block32kErase : resultOf (.block32kErase 0x00008000) = some (.bytes [0x52, 0x00, 0x80, 0x00]) := by decide
theorem test_block32kErase_all_ones :
    resultOf (.block32kErase 0xFFFFFFFF) = some (.bytes [0x52, 0xFF, 0xFF, 0xFF]) := by decide
theorem test_block64kErase : resultOf (.block64kErase 0x00010000) = some (.bytes [0xD8, 0x01, 0x00, 0x00]) := by decide
theorem test_block64kErase_aliases :
    resultOf (.block64kErase 0x01000000) = some (.bytes [0xD8, 0x00, 0x00, 0x00]) := by decide
theorem test_fastReadPrefix :
    resultOf (.fastReadPrefix 0x00ABCDEF) = some (.bytes [0x0B, 0xAB, 0xCD, 0xEF, 0x00]) := by decide
theorem test_fastReadPrefix_ports :
    portsOf (.fastReadPrefix 0xFFFFFFFF) = some ⟨5, 0x0B, 0xFF, 0xFF, 0xFF, 0x00⟩ := by decide
theorem test_pageProgramPrefix : resultOf (.pageProgramPrefix 0x000000FF) = some (.bytes [0x02, 0x00, 0x00, 0xFF]) := by decide
theorem test_pageProgram_payload_on_the_wire :
    onTheWire (pageProgramPrefix 0x00012345) [0xDE, 0xAD, 0xBE, 0xEF] =
      [0x02, 0x01, 0x23, 0x45, 0xDE, 0xAD, 0xBE, 0xEF] := by decide
theorem test_readJedecIdData : resultOf .readJedecIdData = some (.bytes [0x9F, 0x00, 0x00, 0x00]) := by decide
theorem test_getJedecId : resultOf (.getJedecId ⟨0xFF, 0xEF, 0x40, 0x15⟩) = some (.jedecId ⟨0xEF, 0x40, 0x15⟩) := by decide
theorem test_getCapacity_W25Q16B : resultOf (.getCapacity ⟨0x9F, 0xEF, 0x40, 0x15⟩) = some (.capacity 2097152) := by decide
theorem test_getCapacity_largest_code :
    getCapacity ⟨0x9F, 0xEF, 0x40, 0xFF⟩ =
      57896044618658097711785492504343953926634992332820282019728792003956564819968 := by decide
theorem test_readStatusRegister1Data : resultOf .readStatusRegister1Data = some (.bytes [0x05, 0x00]) := by decide
theorem test_getStatusRegister1_0x83 :
    resultOf (.getStatusRegister1 ⟨0xFF, 0x83⟩) = some (.status1 ⟨true, true, 0, false, false, true⟩) := by decide
theorem test_getStatusRegister1_bp_orientation :
    resultOf (.getStatusRegister1 ⟨0x00, 0x04⟩) = some (.status1 ⟨false, false, 1, false, false, false⟩) := by decide
theorem test_readStatusRegister2Data : resultOf .readStatusRegister2Data = some (.bytes [0x35, 0x00]) := by decide
theorem test_getStatusRegister2 : resultOf (.getStatusRegister2 ⟨0x35, 0x82⟩) = some (.status2 ⟨false, true, true⟩) := by decide
theorem test_getStatusRegister2_reserved_dropped :
    resultOf (.getStatusRegister2 ⟨0x35, 0x7C⟩) = some (.status2 ⟨false, false, false⟩) := by decide
theorem test_writeStatusRegister :
    resultOf (.writeStatusRegister (lsr 5 false true false true false)) = some (.bytes [0x01, 0x54, 0x01]) := by decide
theorem test_writeStatusRegister_bp_orientation :
    resultOf (.writeStatusRegister (lsr 1 false false false false false)) = some (.bytes [0x01, 0x04, 0x00]) := by decide

/-! ### The caller's obligations -/

theorem test_writeEnabled_broken : writeEnabled false [.sectorErase 0, .writeEnable] = false := by decide
theorem test_writeEnabled_kept : writeEnabled false [.writeEnable, .sectorErase 0] = true := by decide
/-- The weakest reading: nothing ends an enable (log 12). -/
theorem test_writeEnabled_never_ends :
    writeEnabled false [.writeEnable, .writeDisable, .sectorErase 0] = true := by decide
theorem test_merge_P3 :
    mergeLsr (getStatusRegister1 ⟨0x00, 0x9E⟩) (getStatusRegister2 ⟨0x00, 0x45⟩) = lsr 7 false false true true false := by
  decide

/-! ### Witnesses: concrete operands and states that meet the hypotheses of each statement that has some -/

/-- Inputs that select Write_Status_Register with every field set. -/
def wsrInputs : Inputs := driveStatus .writeStatusRegister (lsr 7 true true true true true) resetInputs

/-- A state with one evaluation pending. -/
def pendingState (p : Presentation) : State := { State.reset with caller := { pending := [p], transcript := [] } }

theorem witness_NoInputSetsReadOnlyOrReservedBits :
    (block wsrInputs).enc.len ≠ 0 ∧ (block wsrInputs).enc.b1 = 0x01 := by decide
theorem witness_DecoderReadsOnlyTheNamedBits :
    (0x7F : Byte) &&& 0x83 = (0x03 : Byte) &&& 0x83 ∧
      (decoder { resetInputs with s2buf := ⟨0xFF, 0x7F⟩ }) = decoder { resetInputs with s2buf := ⟨0x00, 0x03⟩ } := by decide
theorem witness_AnyExchangedJedecResponseDecodes : IsExchange readJedecIdData [0xFF, 0xEF, 0x40, 0x15] := by decide
theorem witness_UnexchangedRequestsDecodeToPlaceholders :
    bytesOf4 ⟨0x9F, 0, 0, 0⟩ = readJedecIdData ∧ bytesOf2 ⟨0x05, 0⟩ = readStatusRegister1Data ∧
      bytesOf2 ⟨0x35, 0⟩ = readStatusRegister2Data := by decide
theorem witness_SelectorCodesSelectTheirOperations : ({ resetInputs with op := 15 } : Inputs).op = 15 ∧
    ({ resetInputs with op := 14 } : Inputs).op = 14 := by decide
theorem witness_Position1IsTheOpcode : selectedOp wsrInputs.op = some .writeStatusRegister := by decide
theorem witness_OnlyTheFourteenOpcodesAreEmitted : 14 ≤ ({ resetInputs with op := 14 } : Inputs).op.toNat := by decide
theorem witness_Position1FixesTheLength : (block resetInputs).enc.len ≠ 0 := by decide
/-- Two inputs that differ in a dropped address bit, the status ports and a buffer. -/
theorem witness_UnnamedInputsDoNotReachTheEncoder :
    let p := driveAddress .sectorErase 0x01000001 resetInputs
    let q := { driveAddress .sectorErase 0x00000001 wsrInputs with jbuf := ⟨1, 2, 3, 4⟩ }
    p.op = q.op ∧ selectedOp p.op = some .sectorErase ∧ p.addr.toNat % 2 ^ 24 = q.addr.toNat % 2 ^ 24 ∧ p ≠ q := by decide
theorem witness_UnnamedInputsDoNotReachTheEncoder_status :
    let q := { wsrInputs with addr := 5 }
    wsrInputs.op = q.op ∧ selectedOp wsrInputs.op = some .writeStatusRegister ∧ wsrInputs.lsr = q.lsr ∧ wsrInputs ≠ q := by
  decide
theorem witness_EncoderPortsCarryTheOperationsValue : selectedOp (selectorCode .fastReadPrefix) = some .fastReadPrefix := by
  decide
theorem witness_EmittedBytesMatchTheOpcodeTable : Instr.select (.sectorErase 0xFFFFFFFF) = .encoder := by decide
theorem witness_DecodeOfEncodeIsTheInstruction : WellFormed (.fastReadPrefix 0x00FFFFFF) := by decide
theorem witness_EncodeOfDecodeIsTheSequence :
    decode .encoder [0x01, 0xFC, 0x03] = .instr (.writeStatusRegister (lsr 7 true true true true true)) := by decide
theorem witness_WellFormedPresentationsSelect : (Presentation.instr ⟨.capacity, resetInputs⟩) =
    some (.getCapacity ⟨0, 0, 0, 0⟩) := by decide
theorem witness_AddressesBelowTheCapacityLoseNothing :
    2 ^ 21 ≤ 2 ^ 24 ∧ addressBelow (2 ^ 21) (.sectorErase 0x001FFFFF) = true := by decide
theorem witness_EveryStepKeepsTheInvariant :
    Invariant (pendingState (present (.getCapacity ⟨0, 0, 0, 3⟩) resetInputs)) ∧
      ∃ t, step (pendingState (present (.getCapacity ⟨0, 0, 0, 3⟩) resetInputs)) = .next t :=
  ⟨⟨rfl, fun r h => by cases h⟩, _, rfl⟩
theorem witness_StepRunsThePresentedInstruction_some :
    (pendingState (present (.sectorErase 5) resetInputs)).caller.pending = [present (.sectorErase 5) resetInputs] ∧
      (present (.sectorErase 5) resetInputs).instr = some (.sectorErase 5) := by decide
theorem witness_StepRunsThePresentedInstruction_none :
    (pendingState ⟨.encoder, { resetInputs with op := 14 }⟩).caller.pending = [⟨.encoder, { resetInputs with op := 14 }⟩] ∧
      Presentation.instr ⟨.encoder, { resetInputs with op := 14 }⟩ = none := by decide
theorem witness_StepRunsThePresentedInstruction_nil : State.reset.caller.pending = [] := by decide
theorem witness_PlacedWordRunsNext : decodeTableWord 24 0x01FC03 =
    some (.writeStatusRegister (lsr 7 true true true true true)) := by decide
theorem witness_PowerDownDoesNotChangeTheBlock : Instr.powerDown ∈ [Instr.powerDown, .releasePowerDown] ∧
    Instr.select (.sectorErase 0) = .encoder := by decide
theorem witness_DestructiveOperationsNeedNoWriteEnable : destructive (.pageProgramPrefix 0) = true := by decide
theorem witness_UnenabledProgramsRunExactlyAsEnabledOnes : writeEnabled false [.readJedecIdData, .chipErase] = false := by
  decide
/-- An encode operation, without the address or the status operands, from a settled state. -/
theorem witness_EncodeOperationsFrame : Instr.select .chipErase = .encoder ∧ Settled State.reset ∧
    (∀ a, Instr.chipErase ∉ [Instr.sectorErase a, .block32kErase a, .block64kErase a, .fastReadPrefix a,
      .pageProgramPrefix a]) ∧ (∀ v, Instr.chipErase ≠ .writeStatusRegister v) :=
  ⟨rfl, rfl, fun _ => by simp, fun _ => by simp⟩
theorem witness_JedecDecodersFrame : Settled State.reset ∧
    Instr.getCapacity ⟨0, 0, 0, 1⟩ ∈ [Instr.getJedecId ⟨0, 0, 0, 1⟩, .getCapacity ⟨0, 0, 0, 1⟩] := by decide
theorem witness_StatusDecodersFrame : Settled State.reset := rfl
theorem witness_DecodersAreTotalOnAnyBytes : ([0, 0, 0, 0] : List Byte).length = 4 ∧ ([0xFF, 0xFF] : List Byte).length = 2 ∧
    Select.capacity ∈ [Select.jedecId, .capacity] ∧ Select.status2 ∈ [Select.status1, .status2] := by decide
theorem witness_EqualArgumentsGiveEqualResults : Instr.select .readJedecIdData = .encoder := by decide

/-! ### One step -/

/-- The selector codes 14 and 15: the step goes on, the ports carry length 0, no result is returned (R40). -/
theorem test_step_unused_selector :
    (match step (pendingState ⟨.encoder, { resetInputs with op := 15 }⟩) with
      | .next t => decide (t.out.enc = ⟨0, 0, 0, 0, 0, 0⟩ ∧ t.caller.transcript = [])
      | .fault _ => false
      | .refused _ => false) = true := by decide

/-- A word placed at reset runs first. -/
theorem test_step_placed_word :
    (match step (State.reset.withFetchWord 32 0x20123456) with
      | .next t => decide (t.caller.transcript = [.bytes [0x20, 0x12, 0x34, 0x56]] ∧ t.caller.pending = [])
      | .fault _ => false
      | .refused _ => false) = true := by decide

end Sys2Proof.Tests
end

section
/-! SUPPORT. Proofs of the family 00_scope: an operation is a pure function of its operands (spec 00_scope.md R13). -/

namespace Sys2Proof.Machine

/-- What every instruction does in every state, by its effect on each part of the state; later proofs take the next state
from here. -/
theorem exec_completes (i : Instr) (s : State) :
    ∃ t, exec i s = .next t ∧ t.inp = i.drive s.inp ∧ t.out = block (i.drive s.inp) ∧
      t.caller.pending = s.caller.pending ∧ t.caller.transcript = s.caller.transcript ++ [valueOf i] :=
  ⟨_, exec_eq_evaluate i s, State.evaluate_next rfl⟩

/-- The encoder emits the sequence of the operation its selector port selects (R39, R40). -/
theorem encoder_of_selectedOp {o : EncOp} {p : Inputs} (h : selectedOp p.op = some o) :
    encoder p = encoderPorts (emittedSequence o p) := by
  simp [encoder, h]

/-- An encode operation's returned sequence is the one at the encoder's ports, whatever else stands on the input ports:
the encoder reads the selector and the operand ports, and the operation drives them all (R39, R41). -/
theorem encoder_drive {i : Instr} (h : i.select = .encoder) :
    ∃ w, valueOf i = .bytes w ∧ ∀ p, encoder (i.drive p) = encoderPorts w := by
  cases i with
  | getJedecId buf | getCapacity buf | getStatusRegister1 buf | getStatusRegister2 buf => cases h
  | _ => exact ⟨_, rfl, fun p => (encoder_of_selectedOp rfl).trans rfl⟩

/-- Settles O36: the result is `valueOf i` in both states, and an encode operation's ports are a function of it alone. -/
theorem equalArgumentsGiveEqualResults : Obligations.EqualArgumentsGiveEqualResults := by
  intro i s s'
  obtain ⟨t, ht, -, hout, -, htr⟩ := exec_completes i s
  obtain ⟨t', ht', -, hout', -, htr'⟩ := exec_completes i s'
  refine ⟨t, t', valueOf i, ht, ht', htr, htr', fun hsel => ?_⟩
  obtain ⟨w, -, hports⟩ := encoder_drive hsel
  calc t.out.enc = encoder (i.drive s.inp) := congrArg Outputs.enc hout
    _ = encoderPorts w := hports _
    _ = encoder (i.drive s'.inp) := (hports _).symm
    _ = t'.out.enc := (congrArg Outputs.enc hout').symm

end Sys2Proof.Machine
end

section
/-! SUPPORT. Proofs of the family 30_encoding: position 1 of an emitted sequence is its opcode (spec 30_encoding.md R70),
and every response buffer is decoded (R79). -/

namespace Sys2Proof.Machine

/-- Position 1 is the opcode in each of the six formats (R70, R71). -/
theorem emittedSequence_head (o : EncOp) (p : Inputs) : (emittedSequence o p).head? = some (opcodeOf o) := by
  unfold emittedSequence
  cases formatOf o <;> rfl

/-- The length of the emitted sequence is its format's, whatever the operands (R71). -/
theorem emittedSequence_length (o : EncOp) (p : Inputs) : (emittedSequence o p).length = formatLength (formatOf o) := by
  unfold emittedSequence
  cases formatOf o <;> rfl

/-- The length port holds every format's length, and none is 0 (R39, R71). -/
theorem ofNat_formatLength_ne_zero (f : Format) : BitVec.ofNat 3 (formatLength f) ≠ 0 := by
  cases f <;> decide

/-- Settles O22: `opcodeOf` heads the selected operation's sequence, whose length is its format's. -/
theorem position1IsTheOpcode : Obligations.Position1IsTheOpcode := by
  intro p o h
  have henc : (block p).enc = encoderPorts (emittedSequence o p) := encoder_of_selectedOp h
  rw [henc]
  constructor
  · show (emittedSequence o p).getD 0 0 = opcodeOf o
    rw [List.getD_eq_getElem?_getD, ← List.head?_eq_getElem?, emittedSequence_head, Option.getD_some]
  · show BitVec.ofNat 3 (emittedSequence o p).length ≠ 0
    rw [emittedSequence_length]
    exact ofNat_formatLength_ne_zero (formatOf o)

/-- Four bytes are a response buffer for either JEDEC decoder, and encoding its instruction gives them back (R79). -/
theorem decode_four_bytes (b1 b2 b3 b4 : Byte) {sel : Select} (h : sel ∈ [Select.jedecId, .capacity]) :
    ∃ i, decode sel [b1, b2, b3, b4] = .instr i ∧ i.select = sel ∧ encode i = [b1, b2, b3, b4] := by
  obtain rfl | rfl : sel = .jedecId ∨ sel = .capacity := by simpa using h
  · exact ⟨.getJedecId ⟨b1, b2, b3, b4⟩, rfl, rfl, rfl⟩
  · exact ⟨.getCapacity ⟨b1, b2, b3, b4⟩, rfl, rfl, rfl⟩

/-- Two bytes are a response buffer for either status decoder, and encoding its instruction gives them back (R79). -/
theorem decode_two_bytes (b1 b2 : Byte) {sel : Select} (h : sel ∈ [Select.status1, .status2]) :
    ∃ i, decode sel [b1, b2] = .instr i ∧ i.select = sel ∧ encode i = [b1, b2] := by
  obtain rfl | rfl : sel = .status1 ∨ sel = .status2 := by simpa using h
  · exact ⟨.getStatusRegister1 ⟨b1, b2⟩, rfl, rfl, rfl⟩
  · exact ⟨.getStatusRegister2 ⟨b1, b2⟩, rfl, rfl, rfl⟩

/-- Every instruction answers a next state in every state (R140). -/
theorem exec_next (i : Instr) (s : State) : ∃ t, exec i s = .next t :=
  (exec_completes i s).imp fun _ h => h.1

/-- Settles O15: the buffer made of the bytes is the decoded operand, and every instruction completes. -/
theorem decodersAreTotalOnAnyBytes : Obligations.DecodersAreTotalOnAnyBytes := by
  constructor
  · intro w hw sel hsel
    obtain ⟨b1, b2, b3, b4, rfl⟩ := List.length_eq_four.mp hw
    obtain ⟨i, hdec, hi, henc⟩ := decode_four_bytes b1 b2 b3 b4 hsel
    exact ⟨i, hdec, hi, henc, exec_next i⟩
  · intro w hw sel hsel
    obtain ⟨b1, b2, rfl⟩ := List.length_eq_two.mp hw
    obtain ⟨i, hdec, hi, henc⟩ := decode_two_bytes b1 b2 hsel
    exact ⟨i, hdec, hi, henc, exec_next i⟩

end Sys2Proof.Machine
end

section
/-! SUPPORT. Proofs of the family 40_constant_instructions: the one-byte instructions (spec 40_constant_instructions.md
R90 to R94), from what every encode operation does. -/

namespace Sys2Proof.Machine

/-- The ports carry any sequence the block emits: five byte ports hold `MAX_LEN` positions, and the length cuts off the
padding (R39, R41). -/
theorem carriedSequence_encoderPorts {w : List Byte} (h : w.length ≤ Config.maxLength) :
    carriedSequence (encoderPorts w) = w := by
  match w, h with
  | [], _ | [_], _ | [_, _], _ | [_, _, _], _ | [_, _, _, _], _ | [_, _, _, _, _], _ => rfl
  | _ :: _ :: _ :: _ :: _ :: _ :: _, h => exact absurd h (by simp [Config.maxLength])

/-- An encode operation completes in every state; its value is recorded and stands at the encoder's ports. -/
theorem exec_encode_completes {i : Instr} {w : List Byte} (hsel : i.select = .encoder) (hval : valueOf i = .bytes w)
    (s : State) : ∃ t, exec i s = .next t ∧ t.caller.transcript = s.caller.transcript ++ [.bytes w] ∧
      t.out.enc = encoderPorts w := by
  obtain ⟨t, ht, -, hout, -, htr⟩ := exec_completes i s
  obtain ⟨w', hval', hports⟩ := encoder_drive hsel
  obtain rfl : w = w' := Result.bytes.inj (hval.symm.trans hval')
  exact ⟨t, ht, hval ▸ htr, (congrArg Outputs.enc hout).trans (hports s.inp)⟩

/-- The table of the constant instructions: each is an encode operation and its value is its opcode alone (R90 to R94). -/
theorem constant_select_valueOf {x : Instr × Byte} (h : x ∈ [(Instr.writeEnable, (0x06 : Byte)), (.writeDisable, 0x04),
    (.powerDown, 0xB9), (.releasePowerDown, 0xAB), (.chipErase, 0x60)]) :
    x.1.select = .encoder ∧ valueOf x.1 = .bytes [x.2] := by
  simp only [List.mem_cons, List.not_mem_nil, or_false] at h
  obtain rfl | rfl | rfl | rfl | rfl := h <;> exact ⟨rfl, rfl⟩

/-- Settles O1: each constant instruction is an encode operation whose value is one byte, which the ports carry. -/
theorem constantInstructionsReturnTheirOpcode : Obligations.ConstantInstructionsReturnTheirOpcode := by
  intro s x hx
  obtain ⟨hsel, hval⟩ := constant_select_valueOf hx
  obtain ⟨t, ht, htr, henc⟩ := exec_encode_completes hsel hval s
  refine ⟨t, ht, htr, ?_⟩
  rw [henc]
  exact carriedSequence_encoderPorts (by simp [Config.maxLength])

end Sys2Proof.Machine
end

section
/-! SUPPORT. Proofs of the family 41_address_instructions: the address-bearing instructions (spec
41_address_instructions.md R100 to R105), from what every encode operation does. -/

namespace Sys2Proof.Machine

/-- The table of the address-bearing instructions: instruction, opcode and what follows the address (R100 to R104). The
statement `AddressInstructionsEmitTheLow24Bits` ranges over these rows. -/
def addressedRows (a : Address) : List (Instr × Byte × List Byte) :=
  [(.sectorErase a, 0x20, []), (.block32kErase a, 0x52, []), (.block64kErase a, 0xD8, []),
    (.fastReadPrefix a, 0x0B, [0x00]), (.pageProgramPrefix a, 0x02, [])]

/-- Each row is an encode operation, its value is the opcode, the three address bytes and the row's tail, and the ports
have room for it (R71, R100 to R104). -/
theorem addressedRows_select_valueOf {a : Address} {x : Instr × Byte × List Byte} (h : x ∈ addressedRows a) :
    x.1.select = .encoder ∧ valueOf x.1 = .bytes (x.2.1 :: addressBytes a ++ x.2.2) ∧
      (x.2.1 :: addressBytes a ++ x.2.2).length ≤ Config.maxLength := by
  simp only [addressedRows, List.mem_cons, List.not_mem_nil, or_false] at h
  obtain rfl | rfl | rfl | rfl | rfl := h <;>
    exact ⟨rfl, rfl, by simp [Config.address_bytes, Config.addressBytes, Config.maxLength]⟩

/-- Settles O3: each row is an encode operation, whose value is recorded and carried whole by the ports. -/
theorem addressInstructionsEmitTheLow24Bits : Obligations.AddressInstructionsEmitTheLow24Bits := by
  intro a s x hx
  obtain ⟨hsel, hval, hfits⟩ := addressedRows_select_valueOf hx
  obtain ⟨t, ht, htr, henc⟩ := exec_encode_completes hsel hval s
  exact ⟨t, ht, htr, henc ▸ carriedSequence_encoderPorts hfits⟩

/-- The three address bytes, weighted most significant first, are the low 24 bits of the address (R105). -/
theorem addressBytes_bigEndian (a : Address) :
    (a.extractLsb' 16 8).toNat * 2 ^ 16 + (a.extractLsb' 8 8).toNat * 2 ^ 8 + (a.extractLsb' 0 8).toNat =
      a.toNat % 2 ^ 24 := by
  simp only [BitVec.extractLsb'_toNat, Nat.shiftRight_eq_div_pow]
  omega

/-- Only Fast_Read_Prefix has a byte after the address: an instruction and its opcode, with that tail, are a row (R103,
R105). -/
theorem mem_addressedRows_of_opcode {a : Address} {x : Instr × Byte}
    (h : x ∈ [(Instr.sectorErase a, (0x20 : Byte)), (.block32kErase a, 0x52), (.block64kErase a, 0xD8),
      (.fastReadPrefix a, 0x0B), (.pageProgramPrefix a, 0x02)]) :
    (x.1, x.2, if x.1 = .fastReadPrefix a then [(0x00 : Byte)] else []) ∈ addressedRows a := by
  simp only [List.mem_cons, List.not_mem_nil, or_false] at h
  obtain rfl | rfl | rfl | rfl | rfl := h <;> simp [addressedRows]

/-- Settles O4: the sequence is the one of O3, and its address bytes are the big-endian truncation. -/
theorem addressBytesAreTheBigEndianTruncation : Obligations.AddressBytesAreTheBigEndianTruncation := by
  intro a s x hx
  obtain ⟨t, ht, htr, -⟩ := addressInstructionsEmitTheLow24Bits a s _ (mem_addressedRows_of_opcode hx)
  exact ⟨t, _, _, _, _, ht, htr, addressBytes_bigEndian a, rfl⟩

end Sys2Proof.Machine
end

section
/-! SUPPORT. Proofs of the family 42_jedec_id: Get_JEDEC_ID (spec 42_jedec_id.md R111), from what every instruction does
and what the decoder drives at its ID ports. -/

namespace Sys2Proof.Machine

/-- The ID ports together carry the value of `Get_JEDEC_ID` on the buffer at the port (R42, R111). -/
theorem decoder_idPorts (p : Inputs) :
    JedecId.mk (decoder p).idManufacturer (decoder p).idMemoryType (decoder p).idCapacityCode = getJedecId p.jbuf := rfl

/-- Settles O10: the value on [p, m, c, d] is {m, c, d}; it is recorded, and the ID ports carry it. -/
theorem jedecIdIsPositions2To4 : Obligations.JedecIdIsPositions2To4 := by
  intro p m c d s
  obtain ⟨t, ht, -, hout, -, htr⟩ := exec_completes (.getJedecId ⟨p, m, c, d⟩) s
  have hdec : t.out.dec = decoder (driveJbuf ⟨p, m, c, d⟩ s.inp) := congrArg Outputs.dec hout
  have hports : JedecId.mk t.out.dec.idManufacturer t.out.dec.idMemoryType t.out.dec.idCapacityCode = ⟨m, c, d⟩ := by
    rw [hdec, decoder_idPorts, driveJbuf_jbuf, getJedecId]
  exact ⟨t, ht, htr, JedecId.mk.inj hports⟩

end Sys2Proof.Machine
end

section
/-! SUPPORT. Proofs of the family 60_exceptions: no operation and no step can fail (spec 60_exceptions.md R140). -/

namespace Sys2Proof.Machine

/-- Every step answers a next state: with nothing pending and with an unused selector code the block settles, and every
instruction completes (R40, R140). -/
theorem step_next (s : State) : ∃ t, step s = .next t := by
  cases hpending : s.caller.pending with
  | nil => exact ⟨_, step_nil hpending⟩
  | cons p rest =>
    cases hinstr : p.instr with
    | none => exact ⟨_, step_none hpending hinstr⟩
    | some i => exact step_instr hpending hinstr ▸ exec_next i _

/-- Settles O35: an instruction's next state is that of `exec_completes`, a step's that of `step_next`, and the fault type
has no constructor. -/
theorem everyOperationReturnsItsValue : Obligations.EveryOperationReturnsItsValue := by
  refine ⟨fun i s => ?_, step_next, fun fault => nomatch fault⟩
  obtain ⟨t, ht, -, -, hpending, htranscript⟩ := exec_completes i s
  exact ⟨t, ht, htranscript, hpending⟩

end Sys2Proof.Machine
end

section
/-! SUPPORT. The opcode table by format: what a row's mask and match say of a number (spec 30_encoding.md R71, R75, R82),
and from it the two round trips of the wire encoding. -/

namespace Sys2Proof

open Sys2Proof.Machine

/-- The fixed bits of a format's rows, as the table's masks give them (R82). -/
def fixedMask : Format → Nat
  | .op => 0xFF
  | .opa => 0xFF000000
  | .opad => 0xFF000000FF
  | .rq4 => 0xFFFFFFFF
  | .rq2 => 0xFFFF
  | .wsr => 0xFF03FC

/-- The part of a number at the operand bits of a format's rows (R82). -/
def operandBits (f : Format) (w : Nat) : Nat :=
  match f with
  | .op | .rq4 | .rq2 => 0
  | .opa => w % 2 ^ 24
  | .opad => w / 2 ^ 8 % 2 ^ 24 * 2 ^ 8
  | .wsr => w / 2 ^ 10 % 2 ^ 6 * 2 ^ 10 + w % 2 ^ 2

/-- The operands at the ports as a number at the operand bits of a format's rows (R82). -/
def operandNumber (f : Format) (p : Inputs) : Nat :=
  match f with
  | .op | .rq4 | .rq2 => 0
  | .opa => addressNumber p.addr
  | .opad => addressNumber p.addr * 2 ^ 8
  | .wsr => statusNumber p.lsr

/-- Operand ports that hold the fields of a row's number; `assemble_eq_atPorts` ties them to the model's decoder. -/
def fieldInputs (f : Format) (w : Nat) : Inputs :=
  { resetInputs with addr := addressField (if f = .opad then 8 else 0) w, lsr := statusFields w }

/-- The number that the fixed bits of an operation's row spell: its opcode at position 1 and zeros. -/
def opcodeNumber (o : EncOp) : Nat := (opcodeOf o).toNat * 256 ^ (formatLength (formatOf o) - 1)

/-- An operation's row, from its opcode and its format; `encodeRows_eq_rowOf` ties it to the table. -/
def rowOf (o : EncOp) : TableRow :=
  { op := o, bytes := formatLength (formatOf o), mask := fixedMask (formatOf o), value := opcodeNumber o }

/-- Every row of the table is its operation's. -/
theorem encodeRows_eq_rowOf : ∀ r ∈ encodeRows, r = rowOf r.op := by decide

theorem rowOf_mem_encodeRows (o : EncOp) : rowOf o ∈ encodeRows := by
  cases o <;> decide

/-! ### Masks -/

/-- A mask acts on the bits above and below any position apart. -/
theorem and_eq_high_add_low (k w m : Nat) : w &&& m = (w / 2 ^ k &&& m / 2 ^ k) * 2 ^ k + (w % 2 ^ k &&& m % 2 ^ k) := by
  rw [← Nat.and_div_two_pow, ← Nat.and_mod_two_pow, Nat.div_add_mod']

/-- The mask of the `OPAD` row reads the opcode byte and the dummy byte. -/
theorem and_fixedMask_opad {w : Nat} (h : w < 2 ^ 40) : w &&& 0xFF000000FF = w / 2 ^ 32 * 2 ^ 32 + w % 2 ^ 8 := by
  have high : w / 2 ^ 32 &&& 2 ^ 8 - 1 = w / 2 ^ 32 := Nat.and_two_pow_sub_one_of_lt_two_pow (by omega)
  have low : w % 2 ^ 32 &&& 2 ^ 8 - 1 = w % 2 ^ 32 % 2 ^ 8 := Nat.and_two_pow_sub_one_eq_mod _ _
  calc w &&& 0xFF000000FF = (w / 2 ^ 32 &&& 2 ^ 8 - 1) * 2 ^ 32 + (w % 2 ^ 32 &&& 2 ^ 8 - 1) := and_eq_high_add_low 32 w _
    _ = w / 2 ^ 32 * 2 ^ 32 + w % 2 ^ 8 := by rw [high, low]; omega

/-- The mask of the `WSR` row reads the opcode byte, bits 1:0 of position 2 and bits 7:2 of position 3. -/
theorem and_fixedMask_wsr {w : Nat} (h : w < 2 ^ 24) :
    w &&& 0xFF03FC = w / 2 ^ 16 * 2 ^ 16 + w / 2 ^ 2 % 2 ^ 8 * 2 ^ 2 := by
  have high : w / 2 ^ 16 &&& 2 ^ 8 - 1 = w / 2 ^ 16 := Nat.and_two_pow_sub_one_of_lt_two_pow (by omega)
  have middle : w % 2 ^ 16 / 2 ^ 2 &&& 2 ^ 8 - 1 = w % 2 ^ 16 / 2 ^ 2 % 2 ^ 8 := Nat.and_two_pow_sub_one_eq_mod _ _
  calc w &&& 0xFF03FC = (w / 2 ^ 16 &&& 2 ^ 8 - 1) * 2 ^ 16 + (w % 2 ^ 16 &&& 0x03FC) := and_eq_high_add_low 16 w _
    _ = (w / 2 ^ 16 &&& 2 ^ 8 - 1) * 2 ^ 16 + ((w % 2 ^ 16 / 2 ^ 2 &&& 2 ^ 8 - 1) * 2 ^ 2 + (w % 2 ^ 16 % 2 ^ 2 &&& 0)) :=
      congrArg (_ + ·) (and_eq_high_add_low 2 (w % 2 ^ 16) 0x03FC)
    _ = w / 2 ^ 16 * 2 ^ 16 + w / 2 ^ 2 % 2 ^ 8 * 2 ^ 2 := by rw [high, middle, Nat.and_zero]; omega

/-- A number of a format's length is its fixed bits and its operand bits. -/
theorem and_fixedMask_add_operandBits {f : Format} {w : Nat} (h : w < 256 ^ formatLength f) :
    (w &&& fixedMask f) + operandBits f w = w := by
  cases f with simp only [formatLength] at h
  | op => exact Nat.and_two_pow_sub_one_of_lt_two_pow (n := 8) (by omega)
  | rq4 => exact Nat.and_two_pow_sub_one_of_lt_two_pow (n := 32) (by omega)
  | rq2 => exact Nat.and_two_pow_sub_one_of_lt_two_pow (n := 16) (by omega)
  | opa => rw [fixedMask, and_opcode4 w (by omega), operandBits]; omega
  | opad => rw [fixedMask, and_fixedMask_opad (by omega), operandBits]; omega
  | wsr => rw [fixedMask, and_fixedMask_wsr (by omega), operandBits]; omega

/-! ### Rows and numbers -/

/-- The numbers of a row: those of its length with its fixed bits (R82). -/
def TableRow.Matches (r : TableRow) (w : Nat) : Prop := w < 256 ^ r.bytes ∧ w &&& r.mask = r.value

/-- A number of a row is the row's fixed bits with its own operand bits. -/
theorem eq_opcodeNumber_add_of_matches {o : EncOp} {w : Nat} (h : (rowOf o).Matches w) :
    w = opcodeNumber o + operandBits (formatOf o) w := by
  obtain ⟨hlt, hfixed⟩ := h
  rw [← show w &&& fixedMask (formatOf o) = opcodeNumber o from hfixed, and_fixedMask_add_operandBits hlt]

/-- The status operand fits two bytes and leaves the row's fixed bits free: bits 9 to 2 are zero. -/
theorem statusNumber_fits (v : LogicalStatus) :
    statusNumber v < 2 ^ 16 ∧ operandBits .wsr (statusNumber v) = statusNumber v := by
  have := v.bp.isLt
  have := v.spr0.toNat_le; have := v.sec.toNat_le; have := v.tb.toNat_le
  have := v.qe.toNat_le; have := v.spr1.toNat_le
  simp only [operandBits, statusNumber]
  omega

/-- Operands fit the operand bits beside any opcode, within the format's length. -/
theorem opcode_add_operandNumber (f : Format) (c : Byte) (p : Inputs) :
    c.toNat * 256 ^ (formatLength f - 1) + operandNumber f p < 256 ^ formatLength f ∧
      operandBits f (c.toNat * 256 ^ (formatLength f - 1) + operandNumber f p) = operandNumber f p := by
  have hc := c.isLt
  cases f with
  | op | rq4 | rq2 => exact ⟨by simp only [formatLength, operandNumber]; omega, rfl⟩
  | opa | opad => simp only [formatLength, operandNumber, operandBits, addressNumber]; omega
  | wsr =>
    obtain ⟨hlt, hbits⟩ := statusNumber_fits p.lsr
    simp only [formatLength, operandNumber, operandBits] at hbits ⊢
    omega

/-- A row's fixed bits with any operands in place are a number of the row. -/
theorem rowOf_matches (o : EncOp) (p : Inputs) : (rowOf o).Matches (opcodeNumber o + operandNumber (formatOf o) p) := by
  obtain ⟨hlt, hbits⟩ := opcode_add_operandNumber (formatOf o) (opcodeOf o) p
  refine ⟨hlt, Nat.add_right_cancel (m := operandNumber (formatOf o) p) ?_⟩
  exact (congrArg (_ + ·) hbits.symm).trans (and_fixedMask_add_operandBits hlt)

/-- The status fields of a number are its bits, so packing them gives its operand bits. -/
theorem statusNumber_statusFields (w : Nat) : statusNumber (statusFields w) = operandBits .wsr w := by
  simp only [statusNumber, statusFields, operandBits, Nat.toNat_testBit, BitVec.toNat_ofNat]
  omega

theorem testBit_eq_of_toNat {w k : Nat} {b : Bool} (h : w / 2 ^ k % 2 = b.toNat) : w.testBit k = b := by
  rw [Nat.testBit_eq_decide_div_mod_eq, h]
  cases b <;> rfl

/-- The status fields are read back from the operand bits, whatever opcode stands above them. -/
theorem statusFields_statusNumber (c : Nat) (v : LogicalStatus) : statusFields (c * 2 ^ 16 + statusNumber v) = v := by
  obtain ⟨bp, tb, sec, spr0, spr1, qe⟩ := v
  have := bp.isLt
  have := spr0.toNat_le; have := sec.toNat_le; have := tb.toNat_le
  have := qe.toNat_le; have := spr1.toNat_le
  simp only [statusFields, statusNumber, LogicalStatus.mk.injEq]
  refine ⟨BitVec.eq_of_toNat_eq ?_, testBit_eq_of_toNat ?_, testBit_eq_of_toNat ?_, testBit_eq_of_toNat ?_,
    testBit_eq_of_toNat ?_, testBit_eq_of_toNat ?_⟩
  · rw [BitVec.toNat_ofNat]; omega
  all_goals omega

/-- Putting a number's fields back in place gives its operand bits. -/
theorem operandNumber_fieldInputs (f : Format) (w : Nat) : operandNumber f (fieldInputs f w) = operandBits f w := by
  cases f with
  | op | rq4 | rq2 => rfl
  | opa | opad =>
    simp only [operandNumber, fieldInputs, operandBits, addressNumber, addressField, BitVec.toNat_ofNat]
    simp
  | wsr => exact statusNumber_statusFields w

/-! ### Instructions at operand ports -/

/-- A row's instruction is its operation with the row's fields at the operand ports. -/
theorem assemble_eq_atPorts (o : EncOp) (w : Nat) : assemble o w = o.atPorts (fieldInputs (formatOf o) w) := by
  cases o <;> rfl

/-- The encoding of an operation is its row's fixed bits with its operands in place. -/
theorem encode_atPorts (o : EncOp) (p : Inputs) :
    encode (o.atPorts p) = natToBytes (rowOf o).bytes (opcodeNumber o + operandNumber (formatOf o) p) := by
  cases o <;> rfl

@[simp] theorem select_atPorts (o : EncOp) (p : Inputs) : (o.atPorts p).select = .encoder := by
  cases o <;> rfl

theorem truncated_atPorts (o : EncOp) (p : Inputs) :
    (o.atPorts p).truncated = o.atPorts { p with addr := BitVec.ofNat 32 (addressNumber p.addr) } := by
  cases o <;> rfl

/-- An operation reads the operand ports its format names and no other (R41). -/
theorem atPorts_congr {o : EncOp} {p q : Inputs} (haddr : formatOf o = .opa ∨ formatOf o = .opad → p.addr = q.addr)
    (hlsr : formatOf o = .wsr → p.lsr = q.lsr) : o.atPorts p = o.atPorts q := by
  cases o with
  | sectorErase | block32kErase | block64kErase | pageProgramPrefix => simp only [EncOp.atPorts, haddr (.inl rfl)]
  | fastReadPrefix => simp only [EncOp.atPorts, haddr (.inr rfl)]
  | writeStatusRegister => simp only [EncOp.atPorts, hlsr rfl]
  | _ => rfl

/-- Every encode instruction is its operation with the operands that it drives at the ports. -/
theorem exists_atPorts {i : Instr} (h : i.select = .encoder) : ∃ o : EncOp, ∀ p, o.atPorts (i.drive p) = i := by
  cases i with
  | getJedecId buf | getCapacity buf | getStatusRegister1 buf | getStatusRegister2 buf => cases h
  | writeEnable => exact ⟨.writeEnable, fun _ => rfl⟩
  | writeDisable => exact ⟨.writeDisable, fun _ => rfl⟩
  | powerDown => exact ⟨.powerDown, fun _ => rfl⟩
  | releasePowerDown => exact ⟨.releasePowerDown, fun _ => rfl⟩
  | chipErase => exact ⟨.chipErase, fun _ => rfl⟩
  | sectorErase a => exact ⟨.sectorErase, fun _ => rfl⟩
  | block32kErase a => exact ⟨.block32kErase, fun _ => rfl⟩
  | block64kErase a => exact ⟨.block64kErase, fun _ => rfl⟩
  | fastReadPrefix a => exact ⟨.fastReadPrefix, fun _ => rfl⟩
  | pageProgramPrefix a => exact ⟨.pageProgramPrefix, fun _ => rfl⟩
  | readJedecIdData => exact ⟨.readJedecIdData, fun _ => rfl⟩
  | readStatusRegister1Data => exact ⟨.readStatusRegister1Data, fun _ => rfl⟩
  | readStatusRegister2Data => exact ⟨.readStatusRegister2Data, fun _ => rfl⟩
  | writeStatusRegister v => exact ⟨.writeStatusRegister, fun _ => rfl⟩

theorem addressField_encodable (lo w : Nat) : addressEncodable (addressField lo w) = true := by
  have : w / 2 ^ lo % 2 ^ 24 < 2 ^ 24 := Nat.mod_lt _ (by norm_num)
  simp only [addressEncodable, addressField, BitVec.toNat_ofNat, decide_eq_true_eq]
  omega

theorem assemble_wellFormed (o : EncOp) (w : Nat) : WellFormed (assemble o w) := by
  cases o with
  | sectorErase | block32kErase | block64kErase | fastReadPrefix | pageProgramPrefix => exact addressField_encodable _ w
  | _ => rfl

/-- Reading the fields of a row's number gives the operands that were put there, the address truncated. -/
theorem assemble_opcodeNumber_add (o : EncOp) (p : Inputs) :
    assemble o (opcodeNumber o + operandNumber (formatOf o) p) = (o.atPorts p).truncated := by
  rw [assemble_eq_atPorts, truncated_atPorts]
  refine atPorts_congr (fun hf => congrArg (BitVec.ofNat 32) ?_) fun hf => ?_
  · have hc := (opcodeOf o).isLt
    obtain hf | hf := hf <;>
      simp only [opcodeNumber, hf, formatLength, operandNumber, addressNumber, reduceCtorEq, if_false, if_true] <;>
      omega
  · simp only [opcodeNumber, hf, operandNumber]
    exact statusFields_statusNumber _ _

/-! ### The wire decoder -/

/-- The mask of every row covers position 1, and the opcode there is no other row's. -/
theorem encodeRows_position1 : ∀ r ∈ encodeRows, r.bytes ≠ 0 ∧ r.mask / 256 ^ (r.bytes - 1) = 0xFF ∧
    encodeRows.find? (fun q => q.firstByte == r.firstByte) = some r := by decide

/-- The first byte of a sequence that has a row's length and fixed bits is the row's opcode. -/
theorem firstByte_eq_of_matches {r : TableRow} (hr : r ∈ encodeRows) {b : Byte} {s : List Byte}
    (hlen : (b :: s).length = r.bytes) (hm : bytesToNat (b :: s) &&& r.mask = r.value) : r.firstByte = b.toNat := by
  obtain ⟨-, hmask, -⟩ := encodeRows_position1 r hr
  have hn : r.bytes - 1 = s.length := by simp [← hlen]
  have hpow : 256 ^ s.length = 2 ^ (8 * s.length) := by rw [Nat.pow_mul]
  have hb : bytesToNat (b :: s) / 256 ^ s.length = b.toNat := by
    rw [bytesToNat_cons, Nat.add_comm, Nat.add_mul_div_right _ _ (by positivity), Nat.div_eq_of_lt (bytesToNat_lt s),
      Nat.zero_add]
  rw [hn] at hmask
  rw [TableRow.firstByte, hn, ← hm, hpow, Nat.and_div_two_pow, ← hpow, hb, hmask]
  exact Nat.and_two_pow_sub_one_of_lt_two_pow (n := 8) b.isLt

/-- A byte sequence decodes exactly when some row has its length and its fixed bits, to that row's instruction. -/
theorem decodeRequest_eq_instr_iff {s : List Byte} {i : Instr} : decodeRequest s = .instr i ↔
    ∃ o : EncOp, s.length = (rowOf o).bytes ∧ (rowOf o).Matches (bytesToNat s) ∧ i = assemble o (bytesToNat s) := by
  constructor
  · intro h
    cases s with
    | nil => cases h
    | cons b s =>
      simp only [decodeRequest] at h
      split at h
      · cases h
      · next r hfind =>
        have hr : r = rowOf r.op := encodeRows_eq_rowOf r (List.mem_of_find?_eq_some hfind)
        split_ifs at h with hlen hfixed
        rw [not_not] at hlen hfixed
        refine ⟨r.op, hr ▸ hlen, hr ▸ ⟨hlen ▸ bytesToNat_lt _, hfixed⟩, ?_⟩
        exact (Decoded.instr.inj h).symm
  · rintro ⟨o, hlen, ⟨-, hfixed⟩, rfl⟩
    have hr := rowOf_mem_encodeRows o
    obtain ⟨hne, -, hfind⟩ := encodeRows_position1 _ hr
    cases s with
    | nil => exact absurd hlen.symm hne
    | cons b s =>
      rw [firstByte_eq_of_matches hr hlen hfixed] at hfind
      simp only [decodeRequest, hfind, hlen, hfixed, ne_eq, not_true_eq_false, if_false]
      rfl

/-- Decoding at the encoder's function undoes the encoding of an operation, but for the dropped address bits. -/
theorem decodeRequest_encode_atPorts (o : EncOp) (p : Inputs) :
    decodeRequest (encode (o.atPorts p)) = .instr (o.atPorts p).truncated := by
  have hmatch := rowOf_matches o p
  have hnum : bytesToNat (encode (o.atPorts p)) = opcodeNumber o + operandNumber (formatOf o) p := by
    rw [encode_atPorts, bytesToNat_natToBytes, Nat.mod_eq_of_lt hmatch.1]
  rw [decodeRequest_eq_instr_iff]
  refine ⟨o, by rw [encode_atPorts, natToBytes_length], hnum ▸ hmatch, ?_⟩
  rw [hnum, assemble_opcodeNumber_add]

/-- Decoding the byte sequence of any instruction gives it back with its address truncated. -/
theorem decode_encode (i : Instr) : decode i.select (encode i) = .instr i.truncated := by
  by_cases hsel : i.select = .encoder
  · obtain ⟨o, ho⟩ := exists_atPorts hsel
    rw [hsel, ← ho resetInputs]
    exact decodeRequest_encode_atPorts o _
  · cases i with
    | getJedecId buf | getCapacity buf | getStatusRegister1 buf | getStatusRegister2 buf => rfl
    | _ => exact absurd rfl hsel

/-- Settles O29: the general round trip is `decode_encode`, and a well-formed instruction is its own truncation. -/
theorem decodeOfEncodeIsTheInstruction : Obligations.DecodeOfEncodeIsTheInstruction := fun i =>
  ⟨decode_encode i, fun hwf => (decode_encode i).trans (congrArg Decoded.instr (truncated_of_wellFormed hwf))⟩

/-- The instruction of a number of a row is encoded to that number. -/
theorem encode_assemble {o : EncOp} {w : Nat} (h : (rowOf o).Matches w) :
    encode (assemble o w) = natToBytes (rowOf o).bytes w := by
  rw [assemble_eq_atPorts, encode_atPorts, operandNumber_fieldInputs, ← eq_opcodeNumber_add_of_matches h]

/-- A sequence accepted at the encoder's function is the encoding of a well-formed encode operation. -/
theorem encode_of_decodeRequest {w : List Byte} {i : Instr} (h : decodeRequest w = .instr i) :
    encode i = w ∧ WellFormed i ∧ i.select = .encoder := by
  obtain ⟨o, hlen, hmatch, rfl⟩ := decodeRequest_eq_instr_iff.mp h
  refine ⟨?_, assemble_wellFormed o _, assemble_eq_atPorts o _ ▸ select_atPorts o _⟩
  have := natToBytes_bytesToNat w 0
  rw [encode_assemble hmatch, ← hlen]
  simpa using this

theorem decodeResponse4_eq_instr {sel : Select} {mk : Response4 → Instr} {w : List Byte} {i : Instr}
    (h : decodeResponse4 sel mk w = .instr i) : ∃ buf, i = mk buf ∧ w = bytesOf4 buf := by
  unfold decodeResponse4 at h
  split at h
  · exact ⟨_, (Decoded.instr.inj h).symm, rfl⟩
  · cases h

theorem decodeResponse2_eq_instr {sel : Select} {mk : Response2 → Instr} {w : List Byte} {i : Instr}
    (h : decodeResponse2 sel mk w = .instr i) : ∃ buf, i = mk buf ∧ w = bytesOf2 buf := by
  unfold decodeResponse2 at h
  split at h
  · exact ⟨_, (Decoded.instr.inj h).symm, rfl⟩
  · cases h

/-- Settles O30: at the encoder by the table's rows, at a decoder because its operand is the sequence itself. -/
theorem encodeOfDecodeIsTheSequence : Obligations.EncodeOfDecodeIsTheSequence := by
  intro sel w i h
  cases sel with
  | encoder => exact encode_of_decodeRequest h
  | jedecId | capacity =>
    obtain ⟨buf, rfl, rfl⟩ := decodeResponse4_eq_instr h
    exact ⟨rfl, rfl, rfl⟩
  | status1 | status2 =>
    obtain ⟨buf, rfl, rfl⟩ := decodeResponse2_eq_instr h
    exact ⟨rfl, rfl, rfl⟩

/-- An address below a capacity that 24 bits hold is encodable. -/
theorem wellFormed_of_addressBelow {i : Instr} {n : Nat} (hn : n ≤ 2 ^ 24) (h : Safety.addressBelow n i = true) :
    WellFormed i := by
  cases i with
  | sectorErase a | block32kErase a | block64kErase a | fastReadPrefix a | pageProgramPrefix a =>
    exact decide_eq_true ((of_decide_eq_true h).trans_le hn)
  | _ => rfl

/-- Settles O33: such an instruction is well-formed, and O29 gives it back whole. -/
theorem addressesBelowTheCapacityLoseNothing : Obligations.AddressesBelowTheCapacityLoseNothing := by
  intro i n hn hbelow
  obtain ⟨-, hdecode⟩ := decodeOfEncodeIsTheInstruction i
  exact hdecode (wellFormed_of_addressBelow hn hbelow)

/-- Settles O34: each word is run through the decoder of its function. -/
theorem wordsWrittenFromTheTableDecode : Obligations.WordsWrittenFromTheTableDecode := by
  refine ⟨?_, ?_, ?_, ?_, ?_, ?_⟩ <;> decide

end Sys2Proof
end

section
/-! SUPPORT. The fields of the two status registers in their bytes (spec 30_encoding.md R73, 43_status_registers.md R122,
R124 to R128): packing and unpacking as numbers, and what each loses of the other. -/

namespace Sys2Proof.Machine

/-- `pack_sr1` as a number: each field at its weight (R73). -/
theorem packSr1_toNat : ∀ (bp : BlockProtect) (tb sec spr0 : Bool),
    (packSr1 bp tb sec spr0).toNat = 4 * bp.toNat + 32 * tb.toNat + 64 * sec.toNat + 128 * spr0.toNat := by decide

/-- `pack_sr2` as a number: each field at its weight (R73). -/
theorem packSr2_toNat : ∀ spr1 qe : Bool, (packSr2 spr1 qe).toNat = spr1.toNat + 2 * qe.toNat := by decide

theorem getLsbD_toNat {n : Nat} (b : BitVec n) (k : Nat) : (b.getLsbD k).toNat = b.toNat / 2 ^ k % 2 :=
  Nat.toNat_testBit b.toNat k

/-- A byte is the weighted sum of the Status Register 1 fields it unpacks to (R122). -/
theorem unpackSr1_toNat (b : Byte) : b.toNat = (unpackSr1 b).busy.toNat + 2 * (unpackSr1 b).wel.toNat +
    4 * (unpackSr1 b).bp.toNat + 32 * (unpackSr1 b).tb.toNat + 64 * (unpackSr1 b).sec.toNat +
    128 * (unpackSr1 b).spr0.toNat := by
  have := b.isLt
  simp only [unpackSr1, getLsbD_toNat, BitVec.extractLsb'_toNat, Nat.shiftRight_eq_div_pow]
  omega

/-- Unpacking what was packed: the fields come back, Busy and WEL clear (R128). -/
theorem unpackSr1_packSr1 : ∀ (bp : BlockProtect) (tb sec spr0 : Bool),
    unpackSr1 (packSr1 bp tb sec spr0) = ⟨false, false, bp, tb, sec, spr0⟩ := by decide

/-- Unpacking what was packed: the fields come back, SUS clear (R128). -/
theorem unpackSr2_packSr2 : ∀ spr1 qe : Bool, unpackSr2 (packSr2 spr1 qe) = ⟨spr1, qe, false⟩ := by decide

/-- A mask of six high bits drops a byte modulo 4. -/
theorem and_0xFC_toNat (b : Byte) : (b &&& 0xFC).toNat = b.toNat / 4 * 4 := by
  have high : b.toNat / 2 ^ 2 &&& 2 ^ 6 - 1 = b.toNat / 2 ^ 2 :=
    Nat.and_two_pow_sub_one_of_lt_two_pow (by have := b.isLt; omega)
  calc (b &&& 0xFC).toNat = b.toNat &&& 0xFC := BitVec.toNat_and b 0xFC
    _ = (b.toNat / 2 ^ 2 &&& 2 ^ 6 - 1) * 2 ^ 2 + (b.toNat % 2 ^ 2 &&& 0) := and_eq_high_add_low 2 b.toNat 0xFC
    _ = b.toNat / 4 * 4 := by rw [high, Nat.and_zero]; rfl

/-- A mask of two low bits keeps a byte modulo 4. -/
theorem and_0x03_toNat (b : Byte) : (b &&& 0x03).toNat = b.toNat % 4 := Nat.and_two_pow_sub_one_eq_mod b.toNat 2

/-- Packing what was unpacked drops Busy and WEL. -/
theorem packSr1_unpackSr1 (b : Byte) :
    packSr1 (unpackSr1 b).bp (unpackSr1 b).tb (unpackSr1 b).sec (unpackSr1 b).spr0 = b &&& 0xFC := by
  have hsum := unpackSr1_toNat b
  have := (unpackSr1 b).busy.toNat_le
  have := (unpackSr1 b).wel.toNat_le
  apply BitVec.eq_of_toNat_eq
  rw [packSr1_toNat, and_0xFC_toNat]
  omega

/-- Packing what was unpacked drops SUS and the reserved bits. -/
theorem packSr2_unpackSr2 (b : Byte) : packSr2 (unpackSr2 b).spr1 (unpackSr2 b).qe = b &&& 0x03 := by
  apply BitVec.eq_of_toNat_eq
  rw [packSr2_toNat, and_0x03_toNat]
  simp only [unpackSr2, getLsbD_toNat]
  omega

/-- The bits of a Status Register 2 byte under the mask 0x83 are the fields it unpacks to, in their places (R124). -/
theorem and_0x83_eq (b : Byte) : b &&& (0x83 : Byte) =
    b2i (unpackSr2 b).spr1 ||| (b2i (unpackSr2 b).qe <<< 1) ||| (b2i (unpackSr2 b).sus <<< 7) := by
  revert b
  decide

/-- Two bytes unpack to the same Status Register 2 fields exactly when they agree at bits 0, 1 and 7 (R34, R124). -/
theorem unpackSr2_eq_iff {b c : Byte} : unpackSr2 c = unpackSr2 b ↔ c &&& 0x83 = b &&& 0x83 := by
  have unpack_masked : ∀ x : Byte, unpackSr2 (x &&& 0x83) = unpackSr2 x := fun x => by simp [unpackSr2]
  constructor
  · intro h
    rw [and_0x83_eq, and_0x83_eq, h]
  · intro h
    rw [← unpack_masked c, h, unpack_masked]

/-- No written byte has a read-only or reserved bit set (R33, R73). -/
theorem packSr1_readOnly : ∀ (bp : BlockProtect) (tb sec spr0 : Bool), packSr1 bp tb sec spr0 &&& 0x03 = 0 := by decide

theorem packSr2_reserved : ∀ spr1 qe : Bool, packSr2 spr1 qe &&& 0xFC = 0 := by decide

end Sys2Proof.Machine
end

section
/-! SUPPORT. The encoder's ports: what the selector selects, what the ports carry and what of the inputs reaches them (spec
10_state.md R39 to R41, 30_encoding.md R70, R71, R75, R77), and that this is what the operations' own rules and the opcode
table give (R82). -/

namespace Sys2Proof.Machine

/-! ### Selector codes and opcodes -/

/-- The codes below 14 select the operation whose code they are, the others none (R40). -/
theorem selectedOp_map_selectorCode :
    ∀ c : BitVec 4, (selectedOp c).map selectorCode = if c.toNat < 14 then some c else none := by decide

theorem selectorCode_of_selectedOp {c : BitVec 4} {o : EncOp} (h : selectedOp c = some o) : selectorCode o = c := by
  have hmap := selectedOp_map_selectorCode c
  rw [h, Option.map_some] at hmap
  split_ifs at hmap
  exact Option.some.inj hmap

theorem isSome_selectedOp_iff (c : BitVec 4) : (∃ o, selectedOp c = some o) ↔ c.toNat < 14 := by
  rw [← Option.isSome_iff_exists, ← Option.isSome_map (f := selectorCode), selectedOp_map_selectorCode]
  split_ifs with h <;> simp [h]

theorem selectedOp_eq_none_of_le {c : BitVec 4} (h : 14 ≤ c.toNat) : selectedOp c = none := by
  rw [Option.eq_none_iff_forall_ne_some]
  intro o ho
  exact absurd ((isSome_selectedOp_iff c).mp ⟨o, ho⟩) (by omega)

theorem firstByte_rowOf (o : EncOp) : (rowOf o).firstByte = (opcodeOf o).toNat := by
  cases o <;> rfl

/-- The table is searched by a row's first byte, which is its opcode: no two operations share one (R95). -/
theorem opcodeOf_injective {o o' : EncOp} (h : opcodeOf o = opcodeOf o') : o = o' := by
  obtain ⟨-, -, hfind⟩ := encodeRows_position1 _ (rowOf_mem_encodeRows o)
  obtain ⟨-, -, hfind'⟩ := encodeRows_position1 _ (rowOf_mem_encodeRows o')
  have hfirst : (rowOf o).firstByte = (rowOf o').firstByte := by rw [firstByte_rowOf, firstByte_rowOf, h]
  rw [hfirst, hfind'] at hfind
  exact congrArg TableRow.op (Option.some.inj hfind).symm

/-- The fourteen bytes are the operations' opcodes (R77). -/
theorem mem_opcodes_iff {b : Byte} :
    b ∈ ([0x06, 0x04, 0xB9, 0xAB, 0x60, 0x20, 0x52, 0xD8, 0x0B, 0x02, 0x9F, 0x05, 0x35, 0x01] : List Byte) ↔
      ∃ o, opcodeOf o = b := by
  have opcodes_eq : ([0x06, 0x04, 0xB9, 0xAB, 0x60, 0x20, 0x52, 0xD8, 0x0B, 0x02, 0x9F, 0x05, 0x35, 0x01] : List Byte) =
      encodeRows.map fun r => opcodeOf r.op := rfl
  rw [opcodes_eq, List.mem_map]
  constructor
  · rintro ⟨r, -, rfl⟩
    exact ⟨r.op, rfl⟩
  · rintro ⟨o, rfl⟩
    exact ⟨rowOf o, rowOf_mem_encodeRows o, rfl⟩

/-! ### What the ports carry -/

theorem emittedSequence_fits (o : EncOp) (p : Inputs) : (emittedSequence o p).length ≤ Config.maxLength := by
  obtain ⟨hle, -⟩ := Config.max_length (formatOf o)
  rwa [emittedSequence_length]

/-- The encoder carries the selected operation's sequence, or none. -/
theorem encoder_cases (p : Inputs) :
    (∃ o, selectedOp p.op = some o ∧ (block p).enc = encoderPorts (emittedSequence o p)) ∨
      (selectedOp p.op = none ∧ (block p).enc = encoderPorts []) := by
  cases hsel : selectedOp p.op with
  | some o => exact .inl ⟨o, rfl, encoder_of_selectedOp hsel⟩
  | none => exact .inr ⟨rfl, by simp [block, encoder, hsel]⟩

/-- A non-empty sequence is that of a selected operation. -/
theorem selectedOp_of_len_ne_zero {p : Inputs} (h : (block p).enc.len ≠ 0) :
    ∃ o, selectedOp p.op = some o ∧ (block p).enc = encoderPorts (emittedSequence o p) := by
  obtain hsome | ⟨-, henc⟩ := encoder_cases p
  · exact hsome
  · exact absurd (congrArg EncoderOut.len henc) h

theorem carriedSequence_of_selectedOp {p : Inputs} {o : EncOp} (h : selectedOp p.op = some o) :
    carriedSequence (block p).enc = emittedSequence o p :=
  (congrArg carriedSequence (encoder_of_selectedOp h)).trans (carriedSequence_encoderPorts (emittedSequence_fits o p))

theorem encoderPorts_len_toNat {w : List Byte} (h : w.length ≤ Config.maxLength) :
    (encoderPorts w).len.toNat = w.length := by
  rw [encoderPorts, BitVec.toNat_ofNat, Nat.mod_eq_of_lt (h.trans_lt (by decide))]

/-- The byte ports hold a sequence and zeros after it (R41). -/
theorem encoderPorts_padded {w : List Byte} (h : w.length ≤ Config.maxLength) :
    [(encoderPorts w).b1, (encoderPorts w).b2, (encoderPorts w).b3, (encoderPorts w).b4, (encoderPorts w).b5] =
      w ++ List.replicate (5 - w.length) 0 := by
  match w, h with
  | [], _ | [_], _ | [_, _], _ | [_, _, _], _ | [_, _, _, _], _ | [_, _, _, _, _], _ => rfl
  | _ :: _ :: _ :: _ :: _ :: _ :: _, h => exact absurd h (by simp [Config.maxLength])

/-! ### Sequences and numbers -/

theorem bytesToNat_concat (s : List Byte) (b : Byte) : bytesToNat (s ++ [b]) = bytesToNat s * 256 + b.toNat :=
  List.foldl_append

/-- The address bytes, read as one number, are the 24 address bits (R72, R105). -/
theorem bytesToNat_addressBytes (a : Address) : bytesToNat (addressBytes a) = addressNumber a := by
  rw [addressNumber, ← addressBytes_bigEndian]
  simp only [addressBytes, bytesToNat, List.foldl_cons, List.foldl_nil]
  ring

/-- Two addresses have the same address bytes exactly when they agree modulo 2^24 (R105). -/
theorem addressBytes_eq_iff {a b : Address} : addressBytes a = addressBytes b ↔ a.toNat % 2 ^ 24 = b.toNat % 2 ^ 24 := by
  have eq_natToBytes : ∀ x, addressBytes x = natToBytes 3 (addressNumber x) := fun x =>
    calc addressBytes x = natToBytes 3 (bytesToNat (addressBytes x) + 0 * 256 ^ 3) :=
        (natToBytes_bytesToNat (addressBytes x) 0).symm
      _ = natToBytes 3 (addressNumber x) := by rw [bytesToNat_addressBytes, Nat.zero_mul, Nat.add_zero]
  constructor
  · intro h
    have := congrArg bytesToNat h
    rwa [bytesToNat_addressBytes, bytesToNat_addressBytes] at this
  · intro h
    rw [eq_natToBytes, eq_natToBytes, addressNumber, h, addressNumber]

/-- The two packed bytes, read as one number, are the status operand's bits (R73, R82). -/
theorem bytesToNat_packedStatus (v : LogicalStatus) :
    bytesToNat [packSr1 v.bp v.tb v.sec v.spr0, packSr2 v.spr1 v.qe] = statusNumber v := by
  simp only [bytesToNat, List.foldl_cons, List.foldl_nil, packSr1_toNat, packSr2_toNat, statusNumber]
  omega

/-- The emitted sequence, read as one number, is the row's fixed bits with the operands in place (R71, R82). -/
theorem bytesToNat_emittedSequence (o : EncOp) (p : Inputs) :
    bytesToNat (emittedSequence o p) = opcodeNumber o + operandNumber (formatOf o) p := by
  simp only [emittedSequence, opcodeNumber]
  cases formatOf o with
  | op | rq4 | rq2 => exact bytesToNat_cons _ _
  | opa =>
    rw [formatOpa, bytesToNat_cons, bytesToNat_addressBytes]
    rfl
  | opad =>
    rw [formatOpad, List.cons_append, bytesToNat_cons, bytesToNat_concat, bytesToNat_addressBytes]
    simp [formatLength, operandNumber, addressBytes, Config.dummy]
  | wsr =>
    rw [formatWsr, bytesToNat_cons, bytesToNat_packedStatus]
    rfl

/-- The sequence built from the format tables is the one the opcode table encodes (R71, R82). -/
theorem emittedSequence_eq_encode (o : EncOp) (p : Inputs) : emittedSequence o p = encode (o.atPorts p) :=
  calc emittedSequence o p
    _ = natToBytes (emittedSequence o p).length (bytesToNat (emittedSequence o p) + 0 * _) :=
      (natToBytes_bytesToNat (emittedSequence o p) 0).symm
    _ = natToBytes (formatLength (formatOf o)) (opcodeNumber o + operandNumber (formatOf o) p) := by
      rw [Nat.zero_mul, Nat.add_zero, emittedSequence_length, bytesToNat_emittedSequence]
    _ = encode (o.atPorts p) := (encode_atPorts o p).symm

/-- The sequence built from the format tables is the value of the operation's own rule (R71, R90 to R125). -/
theorem valueOf_atPorts (o : EncOp) (p : Inputs) : valueOf (o.atPorts p) = .bytes (emittedSequence o p) := by
  cases o <;> rfl

/-- Of the operand ports only those the format names reach the sequence, the address by its low 24 bits (R41, R72). -/
theorem emittedSequence_congr {o : EncOp} {p q : Inputs}
    (haddr : formatOf o = .opa ∨ formatOf o = .opad → addressBytes p.addr = addressBytes q.addr)
    (hlsr : formatOf o = .wsr → p.lsr = q.lsr) : emittedSequence o p = emittedSequence o q := by
  simp only [emittedSequence]
  cases hf : formatOf o with
  | op | rq4 | rq2 => rfl
  | opa => simp only [formatOpa, haddr (.inl hf)]
  | opad => simp only [formatOpad, haddr (.inr hf)]
  | wsr => simp only [hlsr hf]

/-! ### The statements -/

/-- Settles O2: the ports of a one-byte sequence, and `opcodeOf_injective`. -/
theorem constantInstructionsAtThePorts : Obligations.ConstantInstructionsAtThePorts := by
  refine ⟨fun s x hx => ?_, fun o o' => opcodeOf_injective⟩
  obtain ⟨hsel, hval⟩ := constant_select_valueOf hx
  obtain ⟨t, ht, -, henc⟩ := exec_encode_completes hsel hval s
  exact ⟨t, ht, henc⟩

/-- The shape of the address-bearing operations (R100 to R104). -/
theorem addressOperation_eq {F : Address → List Byte}
    (h : F ∈ [sectorErase, block32kErase, block64kErase, fastReadPrefix, pageProgramPrefix]) :
    ∃ c rest, ∀ a, F a = c :: (addressBytes a ++ rest) := by
  simp only [List.mem_cons, List.not_mem_nil, or_false] at h
  obtain rfl | rfl | rfl | rfl | rfl := h
  · exact ⟨0x20, [], fun _ => rfl⟩
  · exact ⟨0x52, [], fun _ => rfl⟩
  · exact ⟨0xD8, [], fun _ => rfl⟩
  · exact ⟨0x0B, [Config.dummy], fun _ => rfl⟩
  · exact ⟨0x02, [], fun _ => rfl⟩

/-- Settles O5: only the address bytes of these operations vary, and they are the address modulo 2^24. -/
theorem addressOperationsAgreeOnTheLow24Bits : Obligations.AddressOperationsAgreeOnTheLow24Bits := by
  refine ⟨fun F hF a b => ?_, fun F hF a => ?_, fun a => rfl⟩
  · obtain ⟨c, rest, hshape⟩ := addressOperation_eq hF
    rw [hshape, hshape, List.cons_inj_right, List.append_left_inj, addressBytes_eq_iff]
  · simp only [List.mem_cons, List.not_mem_nil, or_false] at hF
    obtain rfl | rfl | rfl | rfl := hF <;> rfl

/-- The request buffers are values of encode operations (R35, R110, R120, R123). -/
theorem request_select_valueOf {x : Instr × List Byte} (h : x ∈ [(Instr.readJedecIdData, ([0x9F, 0, 0, 0] : List Byte)),
    (.readStatusRegister1Data, [0x05, 0]), (.readStatusRegister2Data, [0x35, 0])]) :
    x.1.select = .encoder ∧ valueOf x.1 = .bytes x.2 ∧ x.2.length ≤ Config.maxLength := by
  simp only [List.mem_cons, List.not_mem_nil, or_false] at h
  obtain rfl | rfl | rfl := h <;> exact ⟨rfl, rfl, by decide⟩

/-- Settles O6: each request is an encode operation, whose value the ports carry whole. -/
theorem requestBuffersAreOpcodeAndZeros : Obligations.RequestBuffersAreOpcodeAndZeros := by
  intro s x hx
  obtain ⟨hsel, hval, hfits⟩ := request_select_valueOf hx
  obtain ⟨t, ht, htr, henc⟩ := exec_encode_completes hsel hval s
  exact ⟨t, ht, htr, henc ▸ carriedSequence_encoderPorts hfits⟩

/-- Write_Status_Register completes with its value recorded and at the encoder's ports (R125). -/
theorem exec_writeStatusRegister (v : LogicalStatus) (s : State) : ∃ t, exec (.writeStatusRegister v) s = .next t ∧
    t.caller.transcript = s.caller.transcript ++ [.bytes (writeStatusRegister v)] ∧
    t.out.enc = encoderPorts (writeStatusRegister v) :=
  exec_encode_completes rfl rfl s

/-- Settles O7: the sequence is 0x01 and the two packed bytes. -/
theorem writeStatusRegisterPacksItsFields : Obligations.WriteStatusRegisterPacksItsFields := by
  intro v s
  obtain ⟨t, ht, htr, henc⟩ := exec_writeStatusRegister v s
  exact ⟨t, _, _, ht, htr, congrArg carriedSequence henc,
    packSr1_toNat _ _ _ _, packSr2_toNat _ _⟩

/-- Settles O8: in range because of the weights, and each byte of the range is packed from the fields it unpacks to. -/
theorem packingPlacesFieldsAndRangesExactly : Obligations.PackingPlacesFieldsAndRangesExactly := by
  refine ⟨packSr1_toNat, packSr2_toNat, fun b s => ⟨?_, fun hb => ?_⟩, fun b s => ⟨?_, fun hb => ?_⟩⟩
  · rintro ⟨v, -, -, -, rfl⟩
    rw [packSr1_toNat]
    omega
  · obtain ⟨t, ht, -, henc⟩ := exec_writeStatusRegister (mergeLsr (unpackSr1 b) (unpackSr2 b)) s
    have hpack : packSr1 (unpackSr1 b).bp (unpackSr1 b).tb (unpackSr1 b).sec (unpackSr1 b).spr0 = b :=
      BitVec.eq_of_toNat_eq (by rw [packSr1_unpackSr1, and_0xFC_toNat]; omega)
    exact ⟨_, t, ht, (congrArg EncoderOut.b2 henc).trans hpack, hpack.symm⟩
  · rintro ⟨v, -, -, -, rfl⟩
    have := v.spr1.toNat_le
    have := v.qe.toNat_le
    rw [packSr2_toNat]
    omega
  · obtain ⟨t, ht, -, henc⟩ := exec_writeStatusRegister (mergeLsr (unpackSr1 b) (unpackSr2 b)) s
    have hpack : packSr2 (unpackSr2 b).spr1 (unpackSr2 b).qe = b :=
      BitVec.eq_of_toNat_eq (by rw [packSr2_unpackSr2, and_0x03_toNat]; omega)
    exact ⟨_, t, ht, (congrArg EncoderOut.b3 henc).trans hpack, hpack.symm⟩

/-- Settles O9: position 1 tells the operation, whose other two bytes are packed ones. -/
theorem noInputSetsReadOnlyOrReservedBits : Obligations.NoInputSetsReadOnlyOrReservedBits := by
  intro p hlen hb1
  obtain ⟨o, hsel, henc⟩ := selectedOp_of_len_ne_zero hlen
  obtain ⟨hopcode, -⟩ := position1IsTheOpcode p o hsel
  obtain rfl : o = .writeStatusRegister := opcodeOf_injective (hopcode.symm.trans hb1)
  rw [henc]
  exact ⟨packSr1_readOnly _ _ _ _, packSr2_reserved _ _⟩

/-- Settles O21: the code table row by row, with position 1 as O22 gives it, and the two codes that select nothing. -/
theorem selectorCodesSelectTheirOperations : Obligations.SelectorCodesSelectTheirOperations := by
  refine ⟨fun x hx => ?_, selectedOp_selectorCode, by decide, fun p hp => ?_⟩
  · obtain ⟨hcode, hopcode⟩ : selectorCode x.1 = x.2.1 ∧ opcodeOf x.1 = x.2.2 := by
      revert x
      decide
    have hsel : selectedOp x.2.1 = some x.1 := hcode ▸ selectedOp_selectorCode x.1
    exact ⟨hcode, hsel, fun p hp => hopcode ▸ position1IsTheOpcode p x.1 (hp ▸ hsel)⟩
  · have hle : 14 ≤ p.op.toNat := by obtain h | h := hp <;> simp [h]
    obtain ⟨o, hsel, -⟩ | ⟨-, henc⟩ := encoder_cases p
    · rw [selectedOp_eq_none_of_le hle] at hsel
      cases hsel
    · exact henc

/-- Settles O23: a non-empty sequence begins with a selected operation's opcode, and each operation can be selected. -/
theorem onlyTheFourteenOpcodesAreEmitted : Obligations.OnlyTheFourteenOpcodesAreEmitted := by
  refine ⟨fun b => ?_, fun p hop => ?_⟩
  · rw [mem_opcodes_iff]
    constructor
    · rintro ⟨p, hlen, rfl⟩
      obtain ⟨o, hsel, -⟩ := selectedOp_of_len_ne_zero hlen
      obtain ⟨hopcode, -⟩ := position1IsTheOpcode p o hsel
      exact ⟨o, hopcode.symm⟩
    · rintro ⟨o, rfl⟩
      obtain ⟨hopcode, hlen⟩ := position1IsTheOpcode (driveOp o resetInputs) o (selectedOp_selectorCode o)
      exact ⟨driveOp o resetInputs, hlen, hopcode⟩
  · by_contra hlen
    obtain ⟨o, hsel, -⟩ := selectedOp_of_len_ne_zero hlen
    rw [selectedOp_eq_none_of_le hop] at hsel
    cases hsel

/-- Each operation's opcode stands in the row of its format's length (R75). -/
theorem opcode_length_row (o : EncOp) :
    ∃ x ∈ [(1, ([0x06, 0x04, 0xB9, 0xAB, 0x60] : List Byte)), (2, [0x05, 0x35]), (3, [0x01]),
        (4, [0x20, 0x52, 0xD8, 0x02, 0x9F]), (5, [0x0B])],
      opcodeOf o ∈ x.2 ∧ formatLength (formatOf o) = x.1 := by
  cases o <;> decide

/-- Settles O24: position 1 is the opcode and the length its format's. -/
theorem position1FixesTheLength : Obligations.Position1FixesTheLength := by
  intro p hne
  obtain ⟨o, hsel, henc⟩ := selectedOp_of_len_ne_zero hne
  obtain ⟨x, hx, hopcode, hlength⟩ := opcode_length_row o
  obtain ⟨hb1, -⟩ := position1IsTheOpcode p o hsel
  refine ⟨x, hx, hb1 ▸ hopcode, ?_, ?_⟩
  · rw [henc, encoderPorts_len_toNat (emittedSequence_fits o p), emittedSequence_length, hlength]
  · rw [carriedSequence_of_selectedOp hsel, emittedSequence_length, hlength]

/-- Settles O25: the ports show some sequence of at most five bytes. -/
theorem bytesBeyondTheLengthAreZero : Obligations.BytesBeyondTheLengthAreZero := by
  intro p
  obtain ⟨w, hw, henc⟩ : ∃ w : List Byte, w.length ≤ Config.maxLength ∧ (block p).enc = encoderPorts w := by
    obtain ⟨o, -, henc⟩ | ⟨-, henc⟩ := encoder_cases p
    · exact ⟨_, emittedSequence_fits o p, henc⟩
    · exact ⟨[], by decide, henc⟩
  rw [henc, encoderPorts_len_toNat hw, carriedSequence_encoderPorts hw]
  exact ⟨hw, encoderPorts_padded hw⟩

/-- Settles O26: the selector fixes the operation, and its format the ports that reach the sequence. -/
theorem unnamedInputsDoNotReachTheEncoder : Obligations.UnnamedInputsDoNotReachTheEncoder := by
  intro p q hop haddr hlsr
  obtain ⟨o, hsel, henc⟩ | ⟨hsel, henc⟩ := encoder_cases p
  · have hcongr : emittedSequence o p = emittedSequence o q := by
      refine emittedSequence_congr (fun hf => addressBytes_eq_iff.mpr (haddr ?_)) fun hf => hlsr ?_
      · rw [hsel]
        cases o <;> simp [formatOf] at hf ⊢
      · rw [hsel]
        cases o <;> simp [formatOf] at hf ⊢
    rw [henc, hcongr]
    exact (encoder_of_selectedOp (hop ▸ hsel)).symm
  · obtain ⟨o, hsel', -⟩ | ⟨-, henc'⟩ := encoder_cases q
    · rw [← hop, hsel] at hsel'
      cases hsel'
    · rw [henc, henc']

/-- Settles O27: both are the sequence built from the format tables. -/
theorem encoderPortsCarryTheOperationsValue : Obligations.EncoderPortsCarryTheOperationsValue := by
  intro p o hsel
  rw [valueOf_atPorts, carriedSequence_of_selectedOp hsel]

/-- The value of an encode operation is its encoding, and the ports have room for it (R71, R82). -/
theorem valueOf_eq_encode {i : Instr} (h : i.select = .encoder) :
    valueOf i = .bytes (encode i) ∧ (encode i).length ≤ Config.maxLength := by
  obtain ⟨o, ho⟩ := exists_atPorts h
  rw [← ho resetInputs, valueOf_atPorts, ← emittedSequence_eq_encode]
  exact ⟨rfl, emittedSequence_fits o _⟩

/-- Settles O28: an encode operation's value, recorded and at the ports, is its encoding. -/
theorem emittedBytesMatchTheOpcodeTable : Obligations.EmittedBytesMatchTheOpcodeTable := by
  intro i s hsel
  obtain ⟨hval, hfits⟩ := valueOf_eq_encode hsel
  obtain ⟨t, ht, htr, henc⟩ := exec_encode_completes hsel hval s
  exact ⟨t, ht, htr, henc ▸ carriedSequence_encoderPorts hfits⟩

end Sys2Proof.Machine
end

section
/-! SUPPORT. The decode operations: what each returns and what stands at the decoder's ports (spec 42_jedec_id.md,
43_status_registers.md, 20_memory.md R60), from what every instruction does. -/

namespace Sys2Proof.Machine

/-- Settles O11: the port is a one shifted by a code that 256 bits hold. -/
theorem capacityIsTwoToTheFourthByte : Obligations.CapacityIsTwoToTheFourthByte := by
  intro p m c d s
  obtain ⟨t, ht, -, hout, -, htr⟩ := exec_completes (.getCapacity ⟨p, m, c, d⟩) s
  have hport : t.out.dec.capacity = BitVec.twoPow 256 d.toNat :=
    (congrArg (fun out => out.dec.capacity) hout).trans (BitVec.twoPow_eq 256 d.toNat).symm
  refine ⟨t, ht, htr, ?_, fun k hk => ?_⟩
  · rw [hport, BitVec.toNat_twoPow_of_lt d.isLt]
  · have hd : d.toNat < 256 := d.isLt
    rw [hport, BitVec.getLsbD_twoPow, decide_eq_true hd, Bool.true_and, decide_eq_true_iff, eq_comm]

/-- Settles O12: both values are functions of the one buffer. -/
theorem capacityFollowsTheIdsCapacityCode : Obligations.CapacityFollowsTheIdsCapacityCode := by
  intro buf s
  obtain ⟨t, ht, -, -, -, htr⟩ := exec_completes (.getJedecId buf) s
  obtain ⟨u, hu, -, -, -, hur⟩ := exec_completes (.getCapacity buf) t
  exact ⟨t, u, getJedecId buf, getCapacity buf, ht, htr, hu, hur, rfl⟩

/-- Settles O13: the byte is the weighted sum of its fields. -/
theorem statusRegister1FieldsAreTheBitsOfPosition2 : Obligations.StatusRegister1FieldsAreTheBitsOfPosition2 := by
  intro p b s
  obtain ⟨t, ht, -, hout, -, htr⟩ := exec_completes (.getStatusRegister1 ⟨p, b⟩) s
  exact ⟨t, unpackSr1 b, ht, htr, congrArg (fun out => out.dec.sr1) hout, unpackSr1_toNat b⟩

/-- Settles O14: the fields are bits, and the mask keeps exactly those. -/
theorem statusRegister2FieldsIgnoreReservedBits : Obligations.StatusRegister2FieldsIgnoreReservedBits := by
  intro p b s
  obtain ⟨t, ht, -, hout, -, htr⟩ := exec_completes (.getStatusRegister2 ⟨p, b⟩) s
  have hb := b.isLt
  refine ⟨t, unpackSr2 b, ht, htr, congrArg (fun out => out.dec.sr2) hout, ?_, ?_, ?_, fun c => unpackSr2_eq_iff⟩
  all_goals
    simp only [unpackSr2, getLsbD_toNat]
    omega

/-- Settles O16: each output is a function of the bits it is said to read. -/
theorem decoderReadsOnlyTheNamedBits : Obligations.DecoderReadsOnlyTheNamedBits := by
  intro p q h2 h3 h4 hs1 hs2
  simp only [block, decoder, h2, h3, h4, hs1, unpackSr2_eq_iff.mpr hs2]

/-- Settles O17: unpacking the two packed bytes gives the fields back and the read-only bits clear. -/
theorem writtenStatusReadsBackEqual : Obligations.WrittenStatusReadsBackEqual := by
  intro v p q s
  obtain ⟨t, ht, -, henc⟩ := exec_writeStatusRegister v s
  have hcarried : carriedSequence t.out.enc = writeStatusRegister v := congrArg carriedSequence henc
  obtain ⟨u1, hu1, -, -, -, htr1⟩ := exec_completes (.getStatusRegister1 (rb1 p (writeStatusRegister v))) t
  obtain ⟨u2, hu2, -, -, -, htr2⟩ := exec_completes (.getStatusRegister2 (rb2 q (writeStatusRegister v))) u1
  have hread1 : getStatusRegister1 (rb1 p (writeStatusRegister v)) = ⟨false, false, v.bp, v.tb, v.sec, v.spr0⟩ :=
    unpackSr1_packSr1 v.bp v.tb v.sec v.spr0
  have hread2 : getStatusRegister2 (rb2 q (writeStatusRegister v)) = ⟨v.spr1, v.qe, false⟩ :=
    unpackSr2_packSr2 v.spr1 v.qe
  rw [valueOf, hread1] at htr1
  rw [valueOf, hread2] at htr2
  rw [← hcarried] at hu1 hu2
  exact ⟨t, u1, u2, _, _, ht, hu1, htr1, hu2, htr2, rfl, rfl, rfl, rfl⟩

/-- Settles O18: packing the two unpacked bytes drops the read-only and the reserved bits. -/
theorem writeBackLosesReadOnlyAndReservedBits : Obligations.WriteBackLosesReadOnlyAndReservedBits := by
  intro buf1 buf2 s
  obtain ⟨t1, ht1, -, -, -, htr1⟩ := exec_completes (.getStatusRegister1 buf1) s
  obtain ⟨t2, ht2, -, -, -, htr2⟩ := exec_completes (.getStatusRegister2 buf2) t1
  obtain ⟨u, hu, hur, -⟩ :=
    exec_writeStatusRegister (mergeLsr (getStatusRegister1 buf1) (getStatusRegister2 buf2)) t2
  have hwritten : writeStatusRegister (mergeLsr (getStatusRegister1 buf1) (getStatusRegister2 buf2)) =
      [0x01, buf1.pos2 &&& 0xFC, buf2.pos2 &&& 0x03] :=
    congrArg₂ (fun s1 s2 => [0x01, s1, s2]) (packSr1_unpackSr1 buf1.pos2) (packSr2_unpackSr2 buf2.pos2)
  exact ⟨t1, t2, u, _, _, ht1, htr1, ht2, htr2, hu, hwritten ▸ hur⟩

/-- Settles O19: a response of the request's length is some four bytes, the last three of which are decoded. -/
theorem anyExchangedJedecResponseDecodes : Obligations.AnyExchangedJedecResponseDecodes := by
  intro s resp hexchange
  obtain ⟨p, m, c, d, rfl⟩ := List.length_eq_four.mp (hexchange.trans Config.jedec_buffer_length)
  obtain ⟨r, hr, -, henc⟩ := exec_encode_completes (i := .readJedecIdData) rfl rfl s
  obtain ⟨t, ht, -, -, -, htr⟩ := exec_completes (.getJedecId ⟨p, m, c, d⟩) r
  obtain ⟨u, hu, -, -, -, hur⟩ := exec_completes (.getCapacity ⟨p, m, c, d⟩) t
  exact ⟨⟨p, m, c, d⟩, r, t, u, m, c, d, rfl, rfl, hr, congrArg carriedSequence henc, ht, htr, hu, hur⟩

/-- Settles O20: the bytes after the opcode are zeros, and the values of zeros are computed. -/
theorem unexchangedRequestsDecodeToPlaceholders : Obligations.UnexchangedRequestsDecodeToPlaceholders := by
  have returns : ∀ (i : Instr) (r : Result) (s : State), valueOf i = r →
      ∃ t, exec i s = .next t ∧ t.caller.transcript = s.caller.transcript ++ [r] := by
    rintro i _ s rfl
    obtain ⟨t, ht, -, -, -, htr⟩ := exec_completes i s
    exact ⟨t, ht, htr⟩
  intro s
  refine ⟨fun ⟨p, m, c, d⟩ hbuf => ?_, fun ⟨p, b⟩ hbuf => ?_, fun ⟨p, b⟩ hbuf => ?_⟩
  · obtain ⟨rfl, rfl, rfl, rfl⟩ : p = 0x9F ∧ m = 0 ∧ c = 0 ∧ d = 0 := by
      simpa [bytesOf4, readJedecIdData, requestBuffer, Config.placeholder] using hbuf
    exact ⟨returns _ _ s rfl, returns _ _ s rfl⟩
  · obtain ⟨rfl, rfl⟩ : p = 0x05 ∧ b = 0 := by
      simpa [bytesOf2, readStatusRegister1Data, requestBuffer, Config.placeholder] using hbuf
    exact returns _ _ s rfl
  · obtain ⟨rfl, rfl⟩ : p = 0x35 ∧ b = 0 := by
      simpa [bytesOf2, readStatusRegister2Data, requestBuffer, Config.placeholder] using hbuf
    exact returns _ _ s rfl

end Sys2Proof.Machine
end

section
/-! SUPPORT. Presentations, steps and runs of the machine (spec 10_state.md R20, R22, R40, R42, 20_memory.md R53, R59, R61,
60_exceptions.md R154): what a step can do, and what driving one instruction leaves of another's inputs. -/

namespace Sys2Proof.Machine

open Sys2Proof.Safety

/-! ### Presentations -/

/-- Settles O31: the selector decodes its own codes, and the operand ports are read as they were driven. -/
theorem presentedInstructionIsDecoded : Obligations.PresentedInstructionIsDecoded := by
  intro i p
  cases i <;> exact ⟨rfl, rfl⟩

/-- Driving the operation that the ports select, with the operands they carry, leaves them as they are. -/
theorem drive_atPorts {o : EncOp} {p : Inputs} (h : selectorCode o = p.op) : (o.atPorts p).drive p = p := by
  obtain ⟨op, addr, lsr, jbuf, s1buf, s2buf⟩ := p
  obtain rfl : selectorCode o = op := h
  cases o <;> rfl

/-- Settles O32: at the encoder by the selector's table, at a decoder always. -/
theorem wellFormedPresentationsSelect : Obligations.WellFormedPresentationsSelect := by
  rintro ⟨sel, p⟩
  cases sel with
  | encoder =>
    constructor
    · simp [Presentation.wf, Presentation.instr, ← isSome_selectedOp_iff]
    · intro i hi
      obtain ⟨o, hsel, rfl⟩ := Option.map_eq_some_iff.mp hi
      rw [present, select_atPorts, drive_atPorts (selectorCode_of_selectedOp hsel)]
  | jedecId | capacity | status1 | status2 =>
    refine ⟨⟨fun _ => ⟨_, rfl⟩, fun _ => rfl⟩, fun i hi => ?_⟩
    obtain rfl := Option.some.inj hi
    rfl

/-! ### Steps -/

/-- Everything a step can do: the outputs settle, and the transcript stays or grows by one instruction's value. -/
theorem step_cases {s t : State} (h : step s = .next t) : Settled t ∧
    (t.caller.transcript = s.caller.transcript ∨
      ∃ i, t.caller.transcript = s.caller.transcript ++ [valueOf i]) := by
  cases hpending : s.caller.pending with
  | nil =>
    rw [step_nil hpending] at h
    cases h
    exact ⟨settled_settle s, .inl rfl⟩
  | cons p rest =>
    cases hinstr : p.instr with
    | none =>
      rw [step_none hpending hinstr] at h
      cases h
      exact ⟨settled_settle _, .inl rfl⟩
    | some i =>
      rw [step_instr hpending hinstr] at h
      refine ⟨settled_of_exec h, .inr ⟨i, ?_⟩⟩
      rw [exec_eq_evaluate] at h
      obtain ⟨-, -, -, htr⟩ := State.evaluate_next h
      exact htr

/-- Every operation's value is legal: an encode operation's has its opcode and its format's length. -/
theorem legalResult_valueOf (i : Instr) : LegalResult (valueOf i) := by
  by_cases hsel : i.select = .encoder
  · obtain ⟨o, ho⟩ := exists_atPorts hsel
    rw [← ho resetInputs, valueOf_atPorts]
    exact ⟨o, emittedSequence_head o _, emittedSequence_length o _⟩
  · cases i with
    | getJedecId buf | getStatusRegister1 buf | getStatusRegister2 buf => trivial
    | getCapacity buf => exact ⟨buf.pos4, rfl⟩
    | _ => exact absurd rfl hsel

/-- Settles O37: a step settles the outputs and adds at most one operation's value, which is legal. -/
theorem everyStepKeepsTheInvariant : Obligations.EveryStepKeepsTheInvariant := by
  intro s t hinv hstep
  obtain ⟨hsettled, htr | ⟨i, htr⟩⟩ := step_cases hstep
  · exact ⟨hsettled, htr ▸ hinv.legal⟩
  · refine ⟨hsettled, fun r hr => ?_⟩
    rw [htr, List.mem_append, List.mem_singleton] at hr
    obtain hold | rfl := hr
    · exact hinv.legal r hold
    · exact legalResult_valueOf i

/-- Settles O38: by what a step and an evaluation can do. -/
theorem everyEvaluationSettlesTheOutputs : Obligations.EveryEvaluationSettlesTheOutputs := by
  constructor
  · intro s
    obtain ⟨t, ht⟩ := step_next s
    obtain ⟨hsettled, -⟩ := step_cases ht
    exact ⟨t, ht, hsettled⟩
  · intro i s
    obtain ⟨t, ht, hinp, -, -, -⟩ := exec_completes i s
    exact ⟨t, ht, settled_of_exec ht, hinp⟩

/-- Settles O39: the reset outputs are defined as the block's. -/
theorem resetMeetsTheInvariant : Obligations.ResetMeetsTheInvariant :=
  ⟨⟨rfl, fun _ hr => nomatch hr⟩, rfl, rfl⟩

/-- The state a step evaluates in: the presentation's inputs, and the rest of the pending list. -/
theorem popPending_drive {s : State} {p : Presentation} {rest : List Presentation} (h : s.caller.pending = p :: rest)
    (q : Inputs) : s.popPending.drive q =
      { inp := q, out := s.out, caller := { pending := rest, transcript := s.caller.transcript } } := by
  simp [State.popPending, State.drive, h]

/-- Settles O40: the three cases of a step. -/
theorem stepRunsThePresentedInstruction : Obligations.StepRunsThePresentedInstruction := by
  refine ⟨fun s p rest hpending => ⟨fun i hinstr => ?_, fun hinstr => ?_⟩, fun s hpending => step_nil hpending⟩
  · rw [step_instr hpending hinstr, popPending_drive hpending]
  · rw [step_none hpending hinstr, popPending_drive hpending]
    rfl

/-- A step whose first pending evaluation presents an instruction returns its value and keeps the rest pending. -/
theorem step_of_present {s : State} {i : Instr} {p : Inputs} {rest : List Presentation}
    (h : s.caller.pending = present i p :: rest) :
    ∃ t, step s = .next t ∧ t.caller.pending = rest ∧ t.caller.transcript = s.caller.transcript ++ [valueOf i] := by
  obtain ⟨hinstr, -⟩ := presentedInstructionIsDecoded i p
  obtain ⟨t, ht, -, -, hpending, htr⟩ := exec_completes i (s.popPending.drive (present i p).inp)
  refine ⟨t, (step_instr h hinstr).trans ht, ?_, htr⟩
  rw [hpending, popPending_drive h]

/-- Settles O41: the placed instruction is first in the pending list. -/
theorem placedWordRunsNext : Obligations.PlacedWordRunsNext := by
  intro s nbits w i hw
  have hplaced : s.withFetchWord nbits w = s.withInstr i := by rw [State.withFetchWord, hw]
  obtain ⟨t, ht, hpending, htr⟩ := step_of_present (s := s.withInstr i) rfl
  exact ⟨t, hplaced ▸ ht, htr, hpending⟩

/-! ### Two evaluations -/

/-- Settles O42: a value is a function of the instruction alone. -/
theorem eitherOrderGivesTheSameResults : Obligations.EitherOrderGivesTheSameResults := by
  have two : ∀ (i j : Instr) (s : State), ∃ t t', exec i s = .next t ∧ exec j t = .next t' ∧
      t'.caller.transcript = s.caller.transcript ++ [valueOf i, valueOf j] := by
    intro i j s
    obtain ⟨t, ht, -, -, -, htr⟩ := exec_completes i s
    obtain ⟨t', ht', -, -, -, htr'⟩ := exec_completes j t
    exact ⟨t, t', ht, ht', by rw [htr', htr, List.append_assoc]; rfl⟩
  intro i j s
  obtain ⟨t, t', ht, ht', htr⟩ := two i j s
  obtain ⟨u, u', hu, hu', hur⟩ := two j i s
  exact ⟨t, t', u, u', valueOf i, valueOf j, ht, ht', htr, hu, hu', hur⟩

/-- Driving an instruction's operands twice is driving them once. -/
theorem drive_drive (i : Instr) (p : Inputs) : i.drive (i.drive p) = i.drive p := by
  cases i <;> rfl

/-- Settles O43: the operands stand on the ports already. -/
theorem evaluatingTwiceChangesNothing : Obligations.EvaluatingTwiceChangesNothing := by
  intro i s
  obtain ⟨t, ht, hinp, hout, -, htr⟩ := exec_completes i s
  obtain ⟨u, hu, huinp, huout, -, hur⟩ := exec_completes i t
  rw [hinp, drive_drive] at huinp huout
  refine ⟨t, u, valueOf i, ht, hu, huinp.trans hinp.symm, huout.trans hout.symm, ?_⟩
  rw [hur, htr, List.append_assoc]
  rfl

/-- The selector port does not reach the decoder, whatever is driven after it (R42). -/
theorem decoder_drive_driveOp (i : Instr) (o : EncOp) (p : Inputs) :
    decoder (i.drive (driveOp o p)) = decoder (i.drive p) := by
  cases i <;> rfl

/-- An encode operation drives the selector itself, so what stood there does not reach any output (R39, R41). -/
theorem block_drive_driveOp {i : Instr} (h : i.select = .encoder) (o : EncOp) (p : Inputs) :
    block (i.drive (driveOp o p)) = block (i.drive p) := by
  obtain ⟨w, -, hports⟩ := encoder_drive h
  simp only [block, hports, decoder_drive_driveOp]

/-- Settles O44: the power operations drive the selector port alone. -/
theorem powerDownDoesNotChangeTheBlock : Obligations.PowerDownDoesNotChangeTheBlock := by
  intro i s d hd
  obtain ⟨o, ho⟩ : ∃ o, ∀ p, d.drive p = driveOp o p := by
    obtain rfl | rfl : d = .powerDown ∨ d = .releasePowerDown := by simpa using hd
    · exact ⟨.powerDown, fun _ => rfl⟩
    · exact ⟨.releasePowerDown, fun _ => rfl⟩
  obtain ⟨t, ht, hinp, -, -, -⟩ := exec_completes d s
  obtain ⟨u, hu, -, huout, -, hur⟩ := exec_completes i t
  obtain ⟨v, hv, -, hvout, -, hvr⟩ := exec_completes i s
  rw [hinp, ho] at huout
  refine ⟨t, u, v, valueOf i, ht, hu, hv, hur, hvr, ?_, fun hsel => ?_⟩
  · rw [huout, hvout]
    exact decoder_drive_driveOp i o s.inp
  · rw [huout, hvout, block_drive_driveOp hsel]

/-- The destructive instructions are encode operations (R165). -/
theorem select_of_destructive {i : Instr} (h : destructive i = true) : i.select = .encoder := by
  cases i with
  | getJedecId buf | getCapacity buf | getStatusRegister1 buf | getStatusRegister2 buf => cases h
  | _ => rfl

/-- Settles O45: Write_Enable drives the selector port alone, which an encode operation drives again. -/
theorem destructiveOperationsNeedNoWriteEnable : Obligations.DestructiveOperationsNeedNoWriteEnable := by
  intro i s hd
  obtain ⟨w, hw, hinp, -, -, -⟩ := exec_completes .writeEnable s
  obtain ⟨t, ht, -, htout, -, htr⟩ := exec_completes i w
  obtain ⟨u, hu, -, huout, -, hur⟩ := exec_completes i s
  refine ⟨w, t, u, valueOf i, hw, ht, hu, htr, hur, ?_⟩
  rw [htout, huout, hinp]
  exact block_drive_driveOp (select_of_destructive hd) .writeEnable s.inp

/-! ### Programs -/

/-- A list of pending presentations runs to its end, one step each, and returns the values in order. -/
theorem run_of_pending (prog : List Instr) (p : Inputs) (s : State)
    (h : s.caller.pending = prog.map fun i => present i p) :
    ∃ t, Sys2Proof.core.run prog.length s = .next t ∧
      t.caller.transcript = s.caller.transcript ++ prog.map valueOf ∧ t.caller.pending = [] := by
  induction prog generalizing s with
  | nil => exact ⟨s, run_zero s, by simp, h⟩
  | cons i rest ih =>
    obtain ⟨t, ht, hpending, htr⟩ := step_of_present h
    obtain ⟨u, hu, hur, hend⟩ := ih t hpending
    refine ⟨u, (run_succ_of_next ht).trans hu, ?_, hend⟩
    rw [hur, htr, List.append_assoc]
    rfl

/-- Settles O47: the loaded program is the pending list. -/
theorem everyProgramRunsToItsTranscript : Obligations.EveryProgramRunsToItsTranscript := fun prog p s =>
  run_of_pending prog p (withProgram prog p s) rfl

/-- Settles O46: both programs run to their transcripts, and a leading Write_Enable serves all that follow. -/
theorem unenabledProgramsRunExactlyAsEnabledOnes : Obligations.UnenabledProgramsRunExactlyAsEnabledOnes := by
  intro prog p s _
  obtain ⟨t, ht, htr, -⟩ := everyProgramRunsToItsTranscript prog p s
  obtain ⟨t', ht', htr', -⟩ := everyProgramRunsToItsTranscript (.writeEnable :: prog) p s
  exact ⟨t, t', prog.map valueOf, ht, ht', htr, htr', writeEnabled_true prog⟩

end Sys2Proof.Machine
end

section
/-! SUPPORT. Frames: what driving an instruction's operands leaves unchanged, and so what its evaluation does (spec
10_state.md R41, R42; log 11). -/

namespace Sys2Proof.Machine

open Sys2Proof.Safety

/-- An encode operation leaves the response buffers alone. -/
theorem drive_buffers {i : Instr} (h : i.select = .encoder) (p : Inputs) :
    (i.drive p).jbuf = p.jbuf ∧ (i.drive p).s1buf = p.s1buf ∧ (i.drive p).s2buf = p.s2buf := by
  cases i with
  | getJedecId buf | getCapacity buf | getStatusRegister1 buf | getStatusRegister2 buf => cases h
  | _ => exact ⟨rfl, rfl, rfl⟩

/-- The decoder reads the response buffers alone (R42). -/
theorem decoder_drive {i : Instr} (h : i.select = .encoder) (p : Inputs) : decoder (i.drive p) = decoder p := by
  obtain ⟨hjbuf, hs1buf, hs2buf⟩ := drive_buffers h p
  simp only [decoder, hjbuf, hs1buf, hs2buf]

/-- Only an address-bearing operation drives the address port. -/
theorem drive_addr {i : Instr} (p : Inputs) (h : ∀ a, i ∉ [Instr.sectorErase a, .block32kErase a, .block64kErase a,
    .fastReadPrefix a, .pageProgramPrefix a]) : (i.drive p).addr = p.addr := by
  cases i with
  | sectorErase a | block32kErase a | block64kErase a | fastReadPrefix a | pageProgramPrefix a =>
    exact absurd (by simp) (h a)
  | _ => rfl

/-- Only Write_Status_Register drives the status ports. -/
theorem drive_lsr {i : Instr} (p : Inputs) (h : ∀ v, i ≠ .writeStatusRegister v) : (i.drive p).lsr = p.lsr := by
  cases i with
  | writeStatusRegister v => exact absurd rfl (h v)
  | _ => rfl

/-- Every instruction completes with its operands driven, the outputs settled, the pending list as it was and one result
more. -/
theorem exec_frame (i : Instr) (s : State) : ∃ t, exec i s = .next t ∧ t.inp = i.drive s.inp ∧
    t.out = block (i.drive s.inp) ∧ t.caller.pending = s.caller.pending ∧
    t.caller.transcript.length = s.caller.transcript.length + 1 := by
  obtain ⟨t, ht, hinp, hout, hpending, htr⟩ := exec_completes i s
  exact ⟨t, ht, hinp, hout, hpending, by rw [htr, List.length_append, List.length_singleton]⟩

/-- Settles O48: the ports by what the operation drives, the decoder outputs because the buffers stay. -/
theorem encodeOperationsFrame : Obligations.EncodeOperationsFrame := by
  intro i s hsel
  obtain ⟨t, ht, hinp, hout, hpending, hlength⟩ := exec_frame i s
  obtain ⟨hjbuf, hs1buf, hs2buf⟩ := drive_buffers hsel s.inp
  refine ⟨t, ht, hinp ▸ hjbuf, hinp ▸ hs1buf, hinp ▸ hs2buf, fun haddr => ?_, fun hlsr => ?_, hpending, hlength,
    fun hsettled => ?_⟩
  · rw [hinp, drive_addr s.inp haddr]
  · rw [hinp, drive_lsr s.inp hlsr]
  · rw [hout, hsettled]
    exact decoder_drive hsel s.inp

/-- The JEDEC buffer reaches the ID and capacity outputs alone (R42). -/
theorem block_driveJbuf (buf : Response4) (p : Inputs) : (block (driveJbuf buf p)).enc = (block p).enc ∧
    (block (driveJbuf buf p)).dec.sr1 = (block p).dec.sr1 ∧ (block (driveJbuf buf p)).dec.sr2 = (block p).dec.sr2 :=
  ⟨rfl, rfl, rfl⟩

/-- Settles O49: both drive the JEDEC buffer port alone. -/
theorem jedecDecodersFrame : Obligations.JedecDecodersFrame := by
  intro buf s i hi
  have hdrive : i.drive s.inp = driveJbuf buf s.inp := by
    obtain rfl | rfl : i = .getJedecId buf ∨ i = .getCapacity buf := by simpa using hi
    all_goals rfl
  obtain ⟨t, ht, hinp, hout, hpending, hlength⟩ := exec_frame i s
  refine ⟨t, ht, hinp.trans hdrive, hpending, hlength, fun hsettled => ?_⟩
  rw [hout, hdrive, hsettled]
  exact block_driveJbuf buf s.inp

/-- The Status Register 1 buffer reaches its own fields alone (R42). -/
theorem block_driveS1buf (buf : Response2) (p : Inputs) : block (driveS1buf buf p) =
    { block p with dec := { (block p).dec with sr1 := getStatusRegister1 buf } } := rfl

/-- The Status Register 2 buffer reaches its own fields alone (R42). -/
theorem block_driveS2buf (buf : Response2) (p : Inputs) : block (driveS2buf buf p) =
    { block p with dec := { (block p).dec with sr2 := getStatusRegister2 buf } } := rfl

/-- Settles O50: each drives its own buffer port alone. -/
theorem statusDecodersFrame : Obligations.StatusDecodersFrame := by
  intro buf s
  constructor
  · obtain ⟨t, ht, hinp, hout, hpending, hlength⟩ := exec_frame (.getStatusRegister1 buf) s
    refine ⟨t, ht, hinp, hpending, hlength, fun hsettled => ?_⟩
    rw [hout, hsettled]
    exact block_driveS1buf buf s.inp
  · obtain ⟨t, ht, hinp, hout, hpending, hlength⟩ := exec_frame (.getStatusRegister2 buf) s
    refine ⟨t, ht, hinp, hpending, hlength, fun hsettled => ?_⟩
    rw [hout, hsettled]
    exact block_driveS2buf buf s.inp

end Sys2Proof.Machine
end
